-- ==== Sys2Proof/Word.lean ====
section
/-!
DEFINITION. The word types of BDDE: bytes of the memories, 32-bit registers and command words, bus byte addresses.
-/

namespace Sys2Proof

/-- A byte (20_memory.md R70: "A byte is 8 bits everywhere"). -/
abbrev Byte := BitVec 8

/-- A 32-bit register, memory word or command word (00_scope.md R7 `XLEN`, R8). -/
abbrev Word := BitVec 32

/-- A 15-bit bus byte address (00_scope.md R7 `ADDR_BITS`, 20_memory.md R71). -/
abbrev BusAddr := BitVec 15

end Sys2Proof
end

