-- ==== Sys2Proof/Syntax.lean ====
section
/-!
DEFINITION. The 37 commands (30_encoding.md R103), one constructor per row of spec/opcode_table.json. Only the buffer
fields `BS` and `BD` are part of the command word; every other operand is read from `ARG0`..`ARG3` (R106).
-/

namespace Sys2Proof

/-- The two bit buffers a `BS` or `BD` field can name (30_encoding.md R101, R107). -/
inductive Buf where
  | bb0
  | bb1
deriving DecidableEq, Repr

/-- A decoded command. -/
inductive Instr where
  | nop
  | crc8
  | crc8r
  | crc16
  | crc16r
  | xorb
  | addb
  | parb
  | lfsr8
  | lfsr8r
  | lfsr16
  | lfsr16r
  | refl8
  | reflb
  | bbClear (s : Buf)
  | bbAddrow (s : Buf)
  | bbAddbit (s : Buf)
  | bbAddbits (s : Buf)
  | bbInfo (s : Buf)
  | bbRowlen (s : Buf)
  | bbGetbit (s : Buf)
  | bbInvert (s : Buf)
  | bbSearch (s : Buf)
  | bbExtract (s : Buf)
  | bbCmprows (s : Buf)
  | bbFindrep (s : Buf)
  | bbFindpfx (s : Buf)
  | bbManch (s d : Buf)
  | bbDmanch (s d : Buf)
  | demod
  | regInit
  | regAdd
  | regLock
  | regTeardown
  | dspStart
  | dspReturn
  | dspAck
deriving DecidableEq, Repr

end Sys2Proof
end

