-- ==== Sys2Proof/Decode.lean ====
section
/-!
DEFINITION. Decoding a command word (30_encoding.md R101 to R105) and the encoder (R108). The opcode table is written once,
as rows of mask and match with the command they build; `decode` looks a word up in it and rejects by name, in R104's order.
-/

namespace Sys2Proof

/-- The buffer a one-bit field names (R101). -/
def Buf.ofBit (b : Bool) : Buf := if b then .bb1 else .bb0

/-- The one-bit field that names a buffer (R101). -/
def Buf.toBit : Buf → Bool
  | .bb0 => false
  | .bb1 => true

/-- One row of the opcode map (R103): the mask and match of spec/opcode_table.json and the command built from `BS`, `BD`. -/
structure OpRow where
  mask : Word
  pattern : Word
  build : Buf → Buf → Instr

/-- A row of format N (R102): no live field. -/
def OpRow.formatN (opc : Word) (i : Instr) : OpRow := ⟨0xFFFFFFFF#32, opc, fun _ _ => i⟩

/-- A row of format B (R102): `BS` is live. -/
def OpRow.formatB (opc : Word) (i : Buf → Instr) : OpRow := ⟨0xFFFFFEFF#32, opc, fun s _ => i s⟩

/-- A row of format BB (R102): `BS` and `BD` are live. -/
def OpRow.formatBB (opc : Word) (i : Buf → Buf → Instr) : OpRow := ⟨0xFFFFFCFF#32, opc, i⟩

/-- Opcodes 0x00 and 0x1x: `NOP` and the checksum commands (R103). -/
def opTableChecksum : List OpRow :=
  [ .formatN 0x00#32 .nop,
    .formatN 0x10#32 .crc8,
    .formatN 0x11#32 .crc8r,
    .formatN 0x12#32 .crc16,
    .formatN 0x13#32 .crc16r,
    .formatN 0x14#32 .xorb,
    .formatN 0x15#32 .addb,
    .formatN 0x16#32 .parb,
    .formatN 0x18#32 .lfsr8,
    .formatN 0x19#32 .lfsr8r,
    .formatN 0x1A#32 .lfsr16,
    .formatN 0x1B#32 .lfsr16r,
    .formatN 0x1C#32 .refl8,
    .formatN 0x1D#32 .reflb ]

/-- Opcodes 0x2x: the bit-buffer commands (R103). -/
def opTableBuffer : List OpRow :=
  [ .formatB 0x20#32 .bbClear,
    .formatB 0x21#32 .bbAddrow,
    .formatB 0x22#32 .bbAddbit,
    .formatB 0x23#32 .bbAddbits,
    .formatB 0x24#32 .bbInfo,
    .formatB 0x25#32 .bbRowlen,
    .formatB 0x26#32 .bbGetbit,
    .formatB 0x27#32 .bbInvert,
    .formatB 0x28#32 .bbSearch,
    .formatB 0x29#32 .bbExtract,
    .formatB 0x2A#32 .bbCmprows,
    .formatB 0x2B#32 .bbFindrep,
    .formatB 0x2C#32 .bbFindpfx ]

/-- Opcodes 0x3x and 0x4x: second-stage decode, demodulator, registry, dispatcher (R103). -/
def opTableEngine : List OpRow :=
  [ .formatBB 0x30#32 .bbManch,
    .formatBB 0x31#32 .bbDmanch,
    .formatN 0x38#32 .demod,
    .formatN 0x40#32 .regInit,
    .formatN 0x41#32 .regAdd,
    .formatN 0x42#32 .regLock,
    .formatN 0x43#32 .regTeardown,
    .formatN 0x48#32 .dspStart,
    .formatN 0x49#32 .dspReturn,
    .formatN 0x4A#32 .dspAck ]

/-- The opcode map (R103), 37 rows. -/
def opTable : List OpRow := opTableChecksum ++ (opTableBuffer ++ opTableEngine)

/-- Why a command word names no command (R104). -/
inductive DecodeError where
  /-- `OPC` is not one of the 37 opcodes (`ERR_OPCODE`). -/
  | unknownOpcode
  /-- a reserved bit [31:10], or a `BS` or `BD` bit that the format does not have, is set (`ERR_FIELD`). -/
  | reservedField
deriving DecidableEq, Repr

/-- The low byte of a command word, as a word: its `OPC` field (R101). -/
def opcOf (w : Word) : Word := w &&& 0xFF#32

/-- Decode a command word. `ERR_OPCODE` is tested first (R104); a known opcode with any fixed bit wrong is `ERR_FIELD`. -/
def decode (w : Word) : Except DecodeError Instr :=
  match opTable.find? (fun r => r.pattern == opcOf w) with
  | none => .error .unknownOpcode
  | some r =>
    if w &&& r.mask = r.pattern then .ok (r.build (.ofBit (w.getLsbD 8)) (.ofBit (w.getLsbD 9)))
    else .error .reservedField

/-- `OPC | (s << 8) | (d << 9)` (R108). -/
def commandWord (opc : Word) (s d : Buf) : Word :=
  opc ||| ((if s.toBit then 0x100#32 else 0#32) ||| (if d.toBit then 0x200#32 else 0#32))

/-- The command word of a command (R103, R108). A field the format does not have is 0. -/
def encode : Instr → Word
  | .nop => commandWord 0x00#32 .bb0 .bb0
  | .crc8 => commandWord 0x10#32 .bb0 .bb0
  | .crc8r => commandWord 0x11#32 .bb0 .bb0
  | .crc16 => commandWord 0x12#32 .bb0 .bb0
  | .crc16r => commandWord 0x13#32 .bb0 .bb0
  | .xorb => commandWord 0x14#32 .bb0 .bb0
  | .addb => commandWord 0x15#32 .bb0 .bb0
  | .parb => commandWord 0x16#32 .bb0 .bb0
  | .lfsr8 => commandWord 0x18#32 .bb0 .bb0
  | .lfsr8r => commandWord 0x19#32 .bb0 .bb0
  | .lfsr16 => commandWord 0x1A#32 .bb0 .bb0
  | .lfsr16r => commandWord 0x1B#32 .bb0 .bb0
  | .refl8 => commandWord 0x1C#32 .bb0 .bb0
  | .reflb => commandWord 0x1D#32 .bb0 .bb0
  | .bbClear s => commandWord 0x20#32 s .bb0
  | .bbAddrow s => commandWord 0x21#32 s .bb0
  | .bbAddbit s => commandWord 0x22#32 s .bb0
  | .bbAddbits s => commandWord 0x23#32 s .bb0
  | .bbInfo s => commandWord 0x24#32 s .bb0
  | .bbRowlen s => commandWord 0x25#32 s .bb0
  | .bbGetbit s => commandWord 0x26#32 s .bb0
  | .bbInvert s => commandWord 0x27#32 s .bb0
  | .bbSearch s => commandWord 0x28#32 s .bb0
  | .bbExtract s => commandWord 0x29#32 s .bb0
  | .bbCmprows s => commandWord 0x2A#32 s .bb0
  | .bbFindrep s => commandWord 0x2B#32 s .bb0
  | .bbFindpfx s => commandWord 0x2C#32 s .bb0
  | .bbManch s d => commandWord 0x30#32 s d
  | .bbDmanch s d => commandWord 0x31#32 s d
  | .demod => commandWord 0x38#32 .bb0 .bb0
  | .regInit => commandWord 0x40#32 .bb0 .bb0
  | .regAdd => commandWord 0x41#32 .bb0 .bb0
  | .regLock => commandWord 0x42#32 .bb0 .bb0
  | .regTeardown => commandWord 0x43#32 .bb0 .bb0
  | .dspStart => commandWord 0x48#32 .bb0 .bb0
  | .dspReturn => commandWord 0x49#32 .bb0 .bb0
  | .dspAck => commandWord 0x4A#32 .bb0 .bb0

/-- What the decoder reads from a command word given as a number, bit 0 the least significant. The command word is the
data of a bus write to `CMD`, not bytes in memory (20_memory.md R81), so nothing is laid out: bits above `nbits` are 0. -/
def decodeTableWord (nbits w : Nat) : Option Instr :=
  match decode (BitVec.ofNat 32 (w % 2 ^ nbits)) with
  | .ok i => some i
  | .error _ => none

end Sys2Proof
end

