-- ==== Sys2Proof/Config.lean ====
section
/-!
DEFINITION. What one instance of the block fixes (00_scope.md R7, 93_implementation_defined.md U2; log 7), the address map
(20_memory.md R71), and the one value the spec leaves open (U1; log 3).
-/

namespace Sys2Proof.Config

/-- `ROW_CAP_BITS`, the bits a row can hold (R7). -/
abbrev rowCapBits : Nat := 4096

/-- `MAX_ROWS`, the rows a buffer can hold (R7). -/
abbrev maxRows : Nat := 25

/-- `NUM_BUFFERS` (R7). -/
abbrev numBuffers : Nat := 2

/-- `SCR_BYTES`, the size of scratch memory (R7). -/
abbrev scrBytes : Nat := 1024

/-- `PT_CAP`, the pulse pairs a train can hold (R7). -/
abbrev ptCap : Nat := 1024

/-- `REG_SLOTS`, the registry's capacity (R7). -/
abbrev regSlots : Nat := 256

/-- First bus address of `SCR` (R71). -/
abbrev scrBase : Nat := 0x0400

/-- First bus address of `PT` (R71). -/
abbrev ptBase : Nat := 0x2000

/-- First bus address of `REG` (R71). -/
abbrev regBase : Nat := 0x4000

/-- One past the last bus address (R71, `ADDR_BITS` = 15). -/
abbrev busEnd : Nat := 0x8000

/-- The identity word of `ID` (R31). -/
abbrev idWord : Word := 0x04330011#32

/-- FREE VALUE (U1; log 3): what the byte at a bus address of `SCR` or `PT` holds after the `n`-th reset until it is first
written. It has no body: nothing can be proved of it, and every claim holds whatever it is. -/
opaque powerUpByte : Nat → Nat → Byte

end Sys2Proof.Config
end

