-- ==== Sys2Proof/Machine/State.lean ====
section
/-!
DEFINITION. The machine's state (10_state.md R20 to R54) as plain data, the three outcomes' reasons, and the state after reset.
-/

namespace Sys2Proof.Machine

/-- `DST`, the dispatcher's state (R23, R32). Code 3 never occurs (93 U6). -/
inductive DispState where
  | idle
  | waitDecode
  | done
deriving DecidableEq, Repr

/-- `RST`, the registry's state (R47). Code 3 never occurs (93 U6). -/
inductive RegState where
  | uninit
  | opened
  | locked
deriving DecidableEq, Repr

/-- One DecoderDescriptor: the sixteen words of R46, as they stand in `DESC0`..`DESC15` and in a registry slot. -/
structure Desc where
  /-- word 0 `KIND`: [2:0] `CODING`, bit 4 `CARRIER`, bit 8 `DISABLED` -/
  kind : Word
  /-- word 1, signed; lower is tried first -/
  priority : Word
  /-- word 2, microseconds -/
  shortWidth : Word
  /-- word 3, microseconds -/
  longWidth : Word
  /-- word 4, microseconds; 0 means no sync symbol -/
  syncWidth : Word
  /-- word 5, microseconds -/
  gapLimit : Word
  /-- word 6, microseconds -/
  resetLimit : Word
  /-- word 7, microseconds -/
  tolerance : Word
  /-- word 8, optional fixed bit length; no effect in the block -/
  bits : Word
  /-- word 9, 0 to 64; no effect in the block -/
  preambleBits : Word
  /-- word 10, preamble bytes 0 to 3 -/
  preamble0 : Word
  /-- word 11, preamble bytes 4 to 7 -/
  preamble1 : Word
  /-- word 12, opaque handle -/
  decodeFn : Word
  /-- word 13, opaque handle -/
  name : Word
  /-- word 14, opaque handle -/
  fields : Word
  /-- word 15, reserved, zero in every registered slot -/
  reserved : Word
deriving DecidableEq, Repr

/-- Sixteen zero words: `DESC` after reset and what a slot at or above `NREG` reads as (R39, R45). -/
def Desc.zero : Desc :=
  { kind := 0, priority := 0, shortWidth := 0, longWidth := 0, syncWidth := 0, gapLimit := 0, resetLimit := 0,
    tolerance := 0, bits := 0, preambleBits := 0, preamble0 := 0, preamble1 := 0, decodeFn := 0, name := 0, fields := 0,
    reserved := 0 }

/-- One bit buffer (R40): its rows, row 0 first, each a list of bits, position 0 first (R41: "A model may therefore hold a
row as a list of bits"; log 12), and the `OVF` latch. `NROWS` is `rows.length`, `LEN` of a row its length. -/
structure BitBuf where
  rows : List (List Bool)
  ovf : Bool
deriving DecidableEq, Repr

/-- A buffer with no rows and `OVF` clear (R40, R152). -/
def BitBuf.empty : BitBuf := { rows := [], ovf := false }

/-- One event of the `EVT` port (R50, 60_exceptions.md R296). -/
structure Event where
  cand : BitVec 8
  cur : BitVec 8
  /-- signed, normalised -/
  outcome : Word
  level : BitVec 2
deriving DecidableEq, Repr

/-- The size of a bus access: 1, 2 or 4 bytes (20_memory.md R74). -/
inductive Size where
  | one
  | two
  | four
deriving DecidableEq, Repr

/-- What the outside presents to the block (00_scope.md R6): one HOST bus access, or a `RESET` (log 4). A narrow write carries its
data in the low bits of the word (log 10). -/
inductive Request where
  | read (size : Size) (addr : BusAddr)
  | write (size : Size) (addr : BusAddr) (data : Word)
  | reset
deriving DecidableEq, Repr

/-- How the bus answered the last access (20_memory.md R75, R76; log 2). -/
inductive Response where
  /-- no access since the last reset -/
  | none
  /-- a write was done -/
  | done
  /-- a read returned this data, zero-extended -/
  | data (v : Word)
  /-- the access ended with an error response -/
  | busError
deriving DecidableEq, Repr

/-- Written bytes of `SCR` and `PT`: (bus address, byte) cells, addresses strictly rising (log 5). -/
abbrev Memory := List Host.Cell

/-- The whole state (R20). `requests`, `resp` and `epoch` are the model's own (log 1, log 2, log 3). -/
structure State where
  /-- `ARG0` (R21) -/
  arg0 : Word
  /-- `ARG1` (R21) -/
  arg1 : Word
  /-- `ARG2` (R21) -/
  arg2 : Word
  /-- `ARG3` (R21) -/
  arg3 : Word
  /-- `RES0` (R22) -/
  res0 : Word
  /-- `RES1` (R22) -/
  res1 : Word
  /-- `STATUS` (R24) -/
  status : Word
  /-- `LASTCMD` (R25) -/
  lastCmd : Word
  /-- `IE`, bit 0 `IE_REQ`, bit 1 `IE_DONE` (R30) -/
  ie : BitVec 2
  /-- `PT_LEN` (R44) -/
  ptLen : Word
  /-- the written bytes of `SCR` and `PT` (R42, R43) -/
  mem : Memory
  /-- `DESC0`..`DESC15` (R39) -/
  desc : Desc
  /-- the registered slots of `REG`, slot 0 first; `NREG` is the length (R45, R47) -/
  reg : List Desc
  /-- `RST` (R47) -/
  rst : RegState
  /-- `BB0` (R40) -/
  bb0 : BitBuf
  /-- `BB1` (R40) -/
  bb1 : BitBuf
  /-- `BB0TAG[31]`, `TAG_V` (R38) -/
  tagV : Bool
  /-- `BB0TAG[7:0]` (R38) -/
  tagSlot : BitVec 8
  /-- `DST` (R23) -/
  dst : DispState
  /-- `CAND` (R23) -/
  cand : BitVec 8
  /-- `CUR` (R23) -/
  cur : BitVec 8
  /-- `TRIED[0..255]`, bit `i` for slot `i` (R49) -/
  tried : BitVec 256
  /-- `FLIP` (R48) -/
  flip : Bool
  /-- `NREC` (R33) -/
  nrec : Word
  /-- `NATT` (R34) -/
  natt : Word
  /-- `NMATCH` (R35) -/
  nmatch : Word
  /-- `LAST`, signed (R36) -/
  last : Word
  /-- `MATCH[31]`, `MATCH_V` (R37) -/
  matchV : Bool
  /-- `MATCH[7:0]` (R37) -/
  matchSlot : BitVec 8
  /-- the events emitted on `EVT` so far, oldest first; no rule reads them (R50; log 8) -/
  evt : List Event
  /-- MODEL: which reset's free contents `SCR` and `PT` hold (log 3) -/
  epoch : Nat
  /-- MODEL: accesses and resets not yet served, oldest first (log 1) -/
  requests : List Request
  /-- MODEL: the bus's answer to the last access (log 2) -/
  resp : Response
deriving DecidableEq, Repr

/-- Why the machine stops. The spec gives every access and every command an effect, so no run from reset meets one. -/
inductive Fault where
  /-- Raised by `DSP_START` and `DSP_RETURN` alone, when the candidate loop of R258 would not end: possible only with more
  than 256 registered slots, which `REG_ADD` never produces (log 6). Safe: the model stops where no run arrives. -/
  | dispatchLoop
deriving DecidableEq, Repr

/-- Why an instruction has no meaning. -/
inductive Refusal where
  /-- Raised by a refused arm of `exec`, by mnemonic; no arm is refused. Safe. -/
  | notModelled (mnemonic : String)
deriving DecidableEq, Repr

/-- What a meaning answers. -/
abbrev Result := Host.Outcome State Fault Refusal

/-- The machine right after reset (R54). `SCR` and `PT` list no byte: they hold the free contents of epoch 0 (log 3). -/
def State.reset : State :=
  { arg0 := 0, arg1 := 0, arg2 := 0, arg3 := 0, res0 := 0, res1 := 0, status := 0, lastCmd := 0, ie := 0, ptLen := 0,
    mem := [], desc := Desc.zero, reg := [], rst := .uninit, bb0 := BitBuf.empty, bb1 := BitBuf.empty, tagV := false,
    tagSlot := 0, dst := .idle, cand := 0, cur := 0, tried := 0, flip := false, nrec := 0, natt := 0, nmatch := 0,
    last := 0, matchV := false, matchSlot := 0, evt := [], epoch := 0, requests := [], resp := .none }

end Sys2Proof.Machine
end

