-- ==== Sys2Proof/Machine/Flags.lean ====
section
/-!
DEFINITION. Everything flag-like: the codes `STATUS` takes (60_exceptions.md R281), the packed views of the read-only
registers (10_state.md R30, R32, R37, R38), the `IRQ` level (60_exceptions.md R290) and the level of an outcome event
(45_registry_dispatch.md R264). There are no carry, overflow or condition codes (R24). Packed
views are computed when read (log 13).
-/

namespace Sys2Proof.Machine

/-- The refusals of R281, codes 1 to 8 in check order (R282). -/
inductive RefuseCode where
  | opcode
  | field
  | state
  | buf
  | row
  | range
  | operand
  | full
deriving DecidableEq, Repr

/-- The value `STATUS` takes for a refusal (R281). -/
def RefuseCode.code : RefuseCode → Word
  | .opcode => 1
  | .field => 2
  | .state => 3
  | .buf => 4
  | .row => 5
  | .range => 6
  | .operand => 7
  | .full => 8

/-- `DSTATE[1:0]` (R32). -/
def DispState.code : DispState → BitVec 2
  | .idle => 0
  | .waitDecode => 1
  | .done => 2

/-- `DSTATE[3:2]` (R32). -/
def RegState.code : RegState → BitVec 2
  | .uninit => 0
  | .opened => 1
  | .locked => 2

/-- `DSTATE` (R32): `CAND` [23:16], `CUR` [15:8], `FLIP` 4, `RST` [3:2], `DST` [1:0], the rest 0. -/
def State.dstate (s : State) : Word :=
  0#8 ++ s.cand ++ s.cur ++ 0#3 ++ BitVec.ofBool s.flip ++ s.rst.code ++ s.dst.code

/-- `MATCH` (R37): bit 31 `MATCH_V`, [7:0] the slot, the rest 0. -/
def State.matchWord (s : State) : Word := BitVec.ofBool s.matchV ++ 0#23 ++ s.matchSlot

/-- `BB0TAG` (R38): bit 31 `TAG_V`, [7:0] the slot, the rest 0. -/
def State.bb0tag (s : State) : Word := BitVec.ofBool s.tagV ++ 0#23 ++ s.tagSlot

/-- `IE` as read (R30): bits [31:2] read 0. -/
def State.ieWord (s : State) : Word := s.ie.setWidth 32

/-- `NREG` as read (R47). -/
def State.nreg (s : State) : Word := BitVec.ofNat 32 s.reg.length

/-- The `IRQ` output level (R290). -/
def State.irq (s : State) : Bool :=
  (s.ie.getLsbD 0 && s.dst == .waitDecode) || (s.ie.getLsbD 1 && s.dst == .done)

/-- The `level` of an outcome event, from the normalised outcome (R264). -/
def eventLevel (v : Word) : BitVec 2 :=
  if 1 ≤ v.toInt then 0
  else if v.toInt = 0 then 1
  else if v.toInt = -3 then 2
  else 3

end Sys2Proof.Machine
end

