-- ==== Sys2Proof/Machine/Ops.lean ====
section
/-!
DEFINITION. The named operations over memory, scratch slices, bit buffers and `STATUS` that every meaning is written with.

TAKING AN EXCEPTION: the block has no traps (60_exceptions.md R289); what stands in their place is the refusal, one shared
operation here (`State.refuse`, R283). There is no return from one (R292); an executed command ends with `State.accept`.
-/

namespace Sys2Proof.Machine

/-! ## Small arithmetic -/

/-- `ceil8(n)`, the bytes that `n` bits take (00_scope.md R11). -/
def ceil8 (n : Nat) : Nat := (n + 7) / 8

/-- `|a - b|` without wrap-around (00_scope.md R11). -/
def absDiff (a b : Nat) : Nat := (a - b) + (b - a)

/-! ## Ending a command -/

/-- `raise Refuse(code)`: `STATUS` takes the code and nothing else changes (R16, R283). `LASTCMD` was written when the word
was issued (R100). -/
def State.refuse (c : RefuseCode) (s : State) : State := { s with status := c.code }

/-- `STATUS <- 0`, the end of an executed command (R100). -/
def State.accept (s : State) : State := { s with status := 0 }

/-- `RES0 <- v` (R22). -/
def State.setRes0 (v : Word) (s : State) : State := { s with res0 := v }

/-- `RES1 <- v` (R22). -/
def State.setRes1 (v : Word) (s : State) : State := { s with res1 := v }

/-! ## Memory -/

/-- The byte listed at a bus address; none where no byte was written since reset. This is what an unlisted address reads
as at this level: no value (log 5). -/
def Memory.read? : Memory → Nat → Option Byte
  | [], _ => none
  | (b, v) :: m, a => if b = a then some v else Memory.read? m a

/-- Write one byte, keeping addresses strictly rising. -/
def Memory.write : Memory → Nat → Byte → Memory
  | [], a, v => [(a, v)]
  | (b, w) :: m, a, v =>
    if a < b then (a, v) :: (b, w) :: m
    else if a = b then (a, v) :: m
    else (b, w) :: Memory.write m a v

/-- Write consecutive bytes upward from an address. -/
def Memory.writeBytes : Memory → Nat → List Byte → Memory
  | m, _, [] => m
  | m, a, b :: bs => Memory.writeBytes (Memory.write m a b) (a + 1) bs

/-- Every address of a list lies above `a`. -/
def Memory.above (a : Nat) : Memory → Bool
  | [] => true
  | (b, _) :: _ => decide (a < b)

/-- Whether a bus address lies in `SCR` or `PT`, the regions HOST can write (20_memory.md R71). -/
def isRam (a : Nat) : Bool :=
  (Config.scrBase ≤ a && a < Config.scrBase + Config.scrBytes) || (Config.ptBase ≤ a && a < Config.regBase)

/-- The canonical form (log 5): addresses strictly rising, each in `SCR` or `PT`. -/
def Memory.wf : Memory → Bool
  | [] => true
  | (a, _) :: m => isRam a && Memory.above a m && Memory.wf m

/-- The byte a bus address of `SCR` or `PT` holds: the written byte, else the free contents of the last reset (R42, R43,
93 U1; log 3). -/
def State.byteAt (s : State) (a : Nat) : Byte :=
  match Memory.read? s.mem a with
  | some v => v
  | none => Config.powerUpByte s.epoch a

/-- The little-endian value of bytes, the first byte in bits [7:0] (20_memory.md R72). -/
def leWord : List Byte → Word
  | [] => 0
  | b :: bs => (leWord bs <<< 8) ||| b.setWidth 32

/-- The lowest `n` bytes of a word, bits [7:0] first (20_memory.md R72). -/
def leBytes : Nat → Word → List Byte
  | 0, _ => []
  | n + 1, v => v.setWidth 8 :: leBytes n (v >>> 8)

/-- The `n` bytes from a bus address. -/
def State.bytesAt (s : State) (a n : Nat) : List Byte := (List.range n).map fun j => s.byteAt (a + j)

/-- Write bytes upward from a bus address of `SCR` or `PT`. -/
def State.writeBytesAt (a : Nat) (bs : List Byte) (s : State) : State := { s with mem := Memory.writeBytes s.mem a bs }

/-! ## Scratch slices and bits -/

/-- `SCR[a .. a+n-1]` by scratch offset (00_scope.md R10). -/
def State.scrSlice (s : State) (a n : Nat) : List Byte := s.bytesAt (Config.scrBase + a) n

/-- Store bytes to `SCR` upward from a scratch offset. -/
def State.writeScr (a : Nat) (bs : List Byte) (s : State) : State := s.writeBytesAt (Config.scrBase + a) bs

/-- Bit `j` of the scratch slice at offset `a`, most significant bit of each byte first (00_scope.md R10, R170 `patbit`). -/
def State.scrBit (s : State) (a j : Nat) : Bool := (s.byteAt (Config.scrBase + (a + j / 8))).getMsbD (j % 8)

/-- The bits of a byte, most significant first (20_memory.md R73). -/
def byteBits (b : Byte) : List Bool := (List.range 8).map fun i => b.getMsbD i

/-- The bits of a byte sequence, first byte first, most significant bit first. -/
def bytesBits (m : List Byte) : List Bool := m.flatMap byteBits

/-- The byte whose bit `7 - t` is `f t` (20_memory.md R73). -/
def packByte (f : Nat → Bool) : Byte :=
  (List.range 8).foldl (fun acc t => acc ||| (if f t then 1#8 <<< (7 - t) else 0#8)) 0#8

/-- `slice legal`: offset plus length inside `SCR`, on natural numbers (20_memory.md R77, R84). -/
def inScr (a n : Nat) : Bool := a + n ≤ Config.scrBytes

/-! ## Bit buffers: the primitives of 41_bitbuffer_store.md R151 to R154 -/

/-- The buffer a command's field selects (R107). -/
def State.buf (s : State) : Buf → BitBuf
  | .bb0 => s.bb0
  | .bb1 => s.bb1

/-- Replace the selected buffer. -/
def State.setBuf (b : Buf) (v : BitBuf) (s : State) : State :=
  match b with
  | .bb0 => { s with bb0 := v }
  | .bb1 => { s with bb1 := v }

/-- `NROWS[b]` (R40). -/
def BitBuf.nrows (b : BitBuf) : Nat := b.rows.length

/-- The bits of row `r`; no bits where there is no such row. -/
def BitBuf.row (b : BitBuf) (r : Nat) : List Bool := b.rows.getD r []

/-- `LEN[b][r]` (R40). -/
def BitBuf.len (b : BitBuf) (r : Nat) : Nat := (b.row r).length

/-- `bit(b, r, k)`: 0 at or beyond the row's length (R151). -/
def BitBuf.bit (b : BitBuf) (r k : Nat) : Bool := (b.row r).getD k false

/-- `Clear(b)` (R152). -/
def BitBuf.clear (_ : BitBuf) : BitBuf := BitBuf.empty

/-- `AddRow(b)` (R153). -/
def BitBuf.addRow (b : BitBuf) : BitBuf :=
  if b.ovf then b
  else if b.nrows = Config.maxRows then { b with ovf := true }
  else { b with rows := b.rows ++ [[]] }

/-- Append a bit to a row; a row with `ROW_CAP_BITS` bits drops it (R154, R286). -/
def rowAppend (v : Bool) (row : List Bool) : List Bool :=
  if row.length = Config.rowCapBits then row else row ++ [v]

/-- Change the last element of a list. -/
def onLast (f : List Bool → List Bool) : List (List Bool) → List (List Bool)
  | [] => []
  | [r] => [f r]
  | r :: rs => r :: onLast f rs

/-- `AddBit(b, v)` (R154). -/
def BitBuf.addBit (b : BitBuf) (v : Bool) : BitBuf :=
  if b.ovf then b
  else
    let b := if b.nrows = 0 then b.addRow else b
    { b with rows := onLast (rowAppend v) b.rows }

/-- `AddBit` for each of a list of bits, in order. -/
def BitBuf.addBits (b : BitBuf) (vs : List Bool) : BitBuf := vs.foldl BitBuf.addBit b

/-- Flip every bit of every row; lengths, the row count and `OVF` stay (R162). -/
def BitBuf.invert (b : BitBuf) : BitBuf := { b with rows := b.rows.map fun row => row.map fun v => !v }

/-! ## Descriptors -/

/-- Word `w` of a descriptor (R46); there are sixteen. -/
def Desc.word (d : Desc) : Nat → Word
  | 0 => d.kind
  | 1 => d.priority
  | 2 => d.shortWidth
  | 3 => d.longWidth
  | 4 => d.syncWidth
  | 5 => d.gapLimit
  | 6 => d.resetLimit
  | 7 => d.tolerance
  | 8 => d.bits
  | 9 => d.preambleBits
  | 10 => d.preamble0
  | 11 => d.preamble1
  | 12 => d.decodeFn
  | 13 => d.name
  | 14 => d.fields
  | _ => d.reserved

/-- Write word `w` of a descriptor (R39). -/
def Desc.setWord (d : Desc) (v : Word) : Nat → Desc
  | 0 => { d with kind := v }
  | 1 => { d with priority := v }
  | 2 => { d with shortWidth := v }
  | 3 => { d with longWidth := v }
  | 4 => { d with syncWidth := v }
  | 5 => { d with gapLimit := v }
  | 6 => { d with resetLimit := v }
  | 7 => { d with tolerance := v }
  | 8 => { d with bits := v }
  | 9 => { d with preambleBits := v }
  | 10 => { d with preamble0 := v }
  | 11 => { d with preamble1 := v }
  | 12 => { d with decodeFn := v }
  | 13 => { d with name := v }
  | 14 => { d with fields := v }
  | _ => { d with reserved := v }

/-- `CODING`, `KIND[2:0]` (R46). -/
def Desc.coding (d : Desc) : BitVec 3 := d.kind.extractLsb' 0 3

/-- `CARRIER`, `KIND[4]` (R46). -/
def Desc.carrier (d : Desc) : Bool := d.kind.getLsbD 4

/-- `DISABLED`, `KIND[8]` (R46). -/
def Desc.disabled (d : Desc) : Bool := d.kind.getLsbD 8

/-- Registry slot `i`; sixteen zero words at or above `NREG` (R45). -/
def State.slot (s : State) (i : Nat) : Desc := s.reg.getD i Desc.zero

/-- Pulse-train entry `i`: the (pulse, gap) words (R43). -/
def State.pulse (s : State) (i : Nat) : Nat × Nat :=
  ((leWord (s.bytesAt (Config.ptBase + 8 * i) 4)).toNat, (leWord (s.bytesAt (Config.ptBase + 8 * i + 4) 4)).toNat)

/-- The current train, entries 0 to `PT_LEN - 1` in order (R44). -/
def State.train (s : State) : List (Nat × Nat) := (List.range s.ptLen.toNat).map s.pulse

end Sys2Proof.Machine
end

