-- ==== Sys2Proof/Machine/Operands.lean ====
section
/-!
DEFINITION. Operands and the checks on them (30_encoding.md R106, 60_exceptions.md R282). An address, length, row, position
or count is a whole `ARG` register as a natural number; a narrow operand is the low bits of its register.
-/

namespace Sys2Proof.Machine

/-- The low 8 bits of an operand register (R106). -/
def low8 (v : Word) : BitVec 8 := v.setWidth 8

/-- The low 16 bits of an operand register (R106). -/
def low16 (v : Word) : BitVec 16 := v.setWidth 16

/-- Check 3 of R282 for a command that writes buffer `b`: `BB0` is protected in `WAIT_DECODE` (R163). -/
def State.bufLocked (s : State) (b : Buf) : Bool := b == .bb0 && s.dst == .waitDecode

/-- Check 5 of R282: the row exists in the buffer, the whole register compared (R150). -/
def State.rowOk (s : State) (b : Buf) (r : Word) : Bool := r.toNat < (s.buf b).nrows

/-- A command over the scratch slice (`ARG0`, `ARG1`): refused with `ERR_RANGE` when it leaves `SCR`, else `k` of its bytes,
executed (40_checksum.md R120). -/
def State.onSlice (s : State) (k : List Byte → State) : State :=
  if inScr s.arg0.toNat s.arg1.toNat then (k (s.scrSlice s.arg0.toNat s.arg1.toNat)).accept else s.refuse .range

/-- A command that changes buffer `b`: refused with `ERR_STATE` when it is protected (R163), else executed. -/
def State.onUnlocked (s : State) (b : Buf) (k : State) : State :=
  if s.bufLocked b then s.refuse .state else k

/-- A command with a row operand in buffer `b`: refused with `ERR_ROW` when there is no such row (R150), else executed. -/
def State.onRow (s : State) (b : Buf) (r : Word) (k : State) : State :=
  if s.rowOk b r then k else s.refuse .row

end Sys2Proof.Machine
end

