-- ==== Sys2Proof/Machine/Checksum.lean ====
section
/-!
DEFINITION. Checksum and digest commands (40_checksum.md R120 to R134). The two widths of a CRC or digest are one definition
over the width; each command fixes it.
-/

namespace Sys2Proof.Machine

/-- One bit of the MSB-first division (R121, R123). -/
def crcBit {w : Nat} (poly rem : BitVec w) : BitVec w :=
  if rem.msb then (rem <<< 1) ^^^ poly else rem <<< 1

/-- One bit of the reflected division; `rp` is the reversed polynomial (R122, R124). -/
def crcBitR {w : Nat} (rp rem : BitVec w) : BitVec w :=
  if rem.getLsbD 0 then (rem >>> 1) ^^^ rp else rem >>> 1

/-- Apply a step `n` times. -/
def iterate {w : Nat} (f : BitVec w → BitVec w) : Nat → BitVec w → BitVec w
  | 0, x => x
  | n + 1, x => iterate f n (f x)

/-- CRC of a byte sequence, MSB first, the byte entering at the top of the remainder (R121, R123). -/
def crc (w : Nat) (poly init : BitVec w) (m : List Byte) : BitVec w :=
  m.foldl (fun rem b => iterate (crcBit poly) 8 (rem ^^^ BitVec.shiftLeft (b.setWidth w) (w - 8))) init

/-- The remainder of the reflected CRC, `poly` and `init` given unreflected (R122, R124). -/
def crcR (w : Nat) (poly init : BitVec w) (m : List Byte) : BitVec w :=
  m.foldl (fun rem b => iterate (crcBitR poly.reverse) 8 (rem ^^^ b.setWidth w)) init.reverse

/-- Exclusive-or of the bytes (R126). -/
def xorBytes (m : List Byte) : Byte := m.foldl (fun x b => x ^^^ b) 0

/-- Sum of the bytes modulo 2^32 (R127). -/
def addBytes (m : List Byte) : Word := m.foldl (fun x b => x + b.setWidth 32) 0

/-- Parity of all the bits (R128). -/
def parityBytes (m : List Byte) : Bool := (bytesBits m).foldl (fun p v => p ^^ v) false

/-- The key step of the digest: Galois, shifting toward bit 0 (R129, R131). -/
def lfsrStep {w : Nat} (gen key : BitVec w) : BitVec w :=
  if key.getLsbD 0 then (key >>> 1) ^^^ gen else key >>> 1

/-- The key step of the reflected digest: shifting toward the top bit (R130, R132). -/
def lfsrStepR {w : Nat} (gen key : BitVec w) : BitVec w :=
  if key.msb then (key <<< 1) ^^^ gen else key <<< 1

/-- Digest and final key over message bits: the key is used, then stepped (R129). -/
def digestBits {w : Nat} (step : BitVec w → BitVec w) (bits : List Bool) (key : BitVec w) : BitVec w × BitVec w :=
  bits.foldl (fun (sk : BitVec w × BitVec w) v => (if v then sk.1 ^^^ sk.2 else sk.1, step sk.2)) (0, key)

/-- `RES0 <- digest ; RES1 <- final key`, zero-extended (R129 to R132). -/
def State.setDigest {w : Nat} (d : BitVec w × BitVec w) (s : State) : State :=
  (s.setRes0 (d.1.setWidth 32)).setRes1 (d.2.setWidth 32)

/-- `CRC8` (R121). -/
def execCrc8 (s : State) : Result :=
  .next (s.onSlice fun m => s.setRes0 ((crc 8 (low8 s.arg2) (low8 s.arg3) m).setWidth 32))

/-- `CRC8R` (R122). -/
def execCrc8r (s : State) : Result :=
  .next (s.onSlice fun m => s.setRes0 ((crcR 8 (low8 s.arg2) (low8 s.arg3) m).setWidth 32))

/-- `CRC16` (R123). -/
def execCrc16 (s : State) : Result :=
  .next (s.onSlice fun m => s.setRes0 ((crc 16 (low16 s.arg2) (low16 s.arg3) m).setWidth 32))

/-- `CRC16R` (R124). -/
def execCrc16r (s : State) : Result :=
  .next (s.onSlice fun m => s.setRes0 ((crcR 16 (low16 s.arg2) (low16 s.arg3) m).setWidth 32))

/-- `XORB` (R126). -/
def execXorb (s : State) : Result := .next (s.onSlice fun m => s.setRes0 ((xorBytes m).setWidth 32))

/-- `ADDB` (R127). -/
def execAddb (s : State) : Result := .next (s.onSlice fun m => s.setRes0 (addBytes m))

/-- `PARB` (R128). -/
def execParb (s : State) : Result :=
  .next (s.onSlice fun m => s.setRes0 ((BitVec.ofBool (parityBytes m)).setWidth 32))

/-- `LFSR8` (R129). -/
def execLfsr8 (s : State) : Result :=
  .next (s.onSlice fun m => s.setDigest (digestBits (lfsrStep (low8 s.arg2)) (bytesBits m) (low8 s.arg3)))

/-- `LFSR8R` (R130). -/
def execLfsr8r (s : State) : Result :=
  .next (s.onSlice fun m => s.setDigest (digestBits (lfsrStepR (low8 s.arg2)) (bytesBits m) (low8 s.arg3)))

/-- `LFSR16` (R131). -/
def execLfsr16 (s : State) : Result :=
  .next (s.onSlice fun m => s.setDigest (digestBits (lfsrStep (low16 s.arg2)) (bytesBits m) (low16 s.arg3)))

/-- `LFSR16R` (R132). -/
def execLfsr16r (s : State) : Result :=
  .next (s.onSlice fun m => s.setDigest (digestBits (lfsrStepR (low16 s.arg2)) (bytesBits m) (low16 s.arg3)))

/-- `REFL8` (R133): no slice, no refusal. -/
def execRefl8 (s : State) : Result := .next (s.setRes0 ((low8 s.arg0).reverse.setWidth 32)).accept

/-- `REFLB` (R134): each byte of the slice reversed in place; no `RES` written. -/
def execReflb (s : State) : Result :=
  .next (s.onSlice fun m => s.writeScr s.arg0.toNat (m.map fun b => b.reverse))

end Sys2Proof.Machine
end

