-- ==== Sys2Proof/Machine/Demodulator.lean ====
section
/-!
DEFINITION. The pulse demodulator and the `DEMOD` command (44_demodulator.md R200 to R217).
-/

namespace Sys2Proof.Machine

/-- `DM_ST` (R208). -/
inductive DmState where
  | awaitingSync
  | inMessage
  | endOfMessage
deriving DecidableEq, Repr

/-- The class of a width (R204); `none` is out of tolerance or ambiguous. -/
inductive Sym where
  | short
  | long
  | sync
  | none
deriving DecidableEq, Repr

/-- The variables of one demodulation (10_state.md R52) with the buffer it fills. -/
structure Demod where
  st : DmState
  fresh : Bool
  pend : Option Bool
  prev : Option Bool
  buf : BitBuf
deriving DecidableEq, Repr

/-- The start of a demodulation: `Clear(0)` and the variables' first values (R205). -/
def Demod.start : Demod := { st := .awaitingSync, fresh := true, pend := none, prev := none, buf := BitBuf.empty }

/-- The references a width is classified against; `SYNC` only when the profile has one (R204). -/
def Desc.references (p : Desc) : List (Nat × Sym) :=
  [(p.shortWidth.toNat, .short), (p.longWidth.toNat, .long)] ++
    (if p.syncWidth = 0 then [] else [(p.syncWidth.toNat, .sync)])

/-- `classify(w, P)` (R204): the one reference at the least distance within tolerance. -/
def classify (p : Desc) (w : Nat) : Sym :=
  let near := (p.references.map fun rc => (absDiff w rc.1, rc.2)).filter fun dc => dc.1 ≤ p.tolerance.toNat
  match near.filter fun dc => near.all fun e => dc.1 ≤ e.1 with
  | [dc] => dc.2
  | _ => .none

/-- `rnd(x, T)`: `x / T` to the nearest integer, halves upward (R204). -/
def rnd (x t : Nat) : Nat := (2 * x + t) / (2 * t)

/-- `Emit(v)` (R206). -/
def Demod.emit (v : Bool) (d : Demod) : Demod :=
  { d with fresh := false, buf := (if d.fresh then d.buf.addRow else d.buf).addBit v }

/-- `Emit(v)` repeated. -/
def Demod.emitN (v : Bool) : Nat → Demod → Demod
  | 0, d => d
  | n + 1, d => Demod.emitN v n (d.emit v)

/-- `Emit(v)` `n` times, `n` capped at `ROW_CAP_BITS` as R212 allows: the row is full after that (log 9). -/
def Demod.emitRun (v : Bool) (n : Nat) (d : Demod) : Demod := d.emitN v (min n Config.rowCapBits)

/-- `TerminateRow()` (R206). -/
def Demod.terminateRow (d : Demod) : Demod := { d with fresh := true }

/-- `AbortRow()` (R206). -/
def Demod.abortRow (d : Demod) : Demod := { d with fresh := true, st := .awaitingSync, pend := none, prev := none }

/-- `stop` (R205). -/
def Demod.stop (d : Demod) : Demod := { d with st := .endOfMessage }

/-- `DM_ST <- IN_MESSAGE`. -/
def Demod.enter (d : Demod) : Demod := { d with st := .inMessage }

/-- One classified symbol of PWM or PPM (R208 to R210): `shortBit` is the bit a short symbol carries, a long one carries
the other; a profile with a sync symbol starts a message at it. -/
def Demod.symbol (p : Desc) (shortBit : Bool) (k : Sym) (d : Demod) : Demod :=
  match d.st with
  | .awaitingSync =>
    if p.syncWidth = 0 then
      match k with
      | .short => d.enter.emit shortBit
      | .long => d.enter.emit (!shortBit)
      | .sync => d
      | .none => d
    else if k = .sync then d.enter
    else d
  | _ =>
    match k with
    | .short => d.emit shortBit
    | .long => d.emit (!shortBit)
    | .sync => d.terminateRow
    | .none => d.abortRow

/-- `Step_PWM(p, g)` (R209): the pulse is the symbol, short is 1; then the two gap limits. -/
def stepPwm (p : Desc) (pulse gap : Nat) (d : Demod) : Demod :=
  let d := d.symbol p true (classify p pulse)
  if p.resetLimit.toNat < gap then d.terminateRow.stop
  else if p.gapLimit.toNat < gap then d.terminateRow
  else d

/-- `Step_PPM(p, g)` (R210): the limits first; then the gap is the symbol, short is 0. -/
def stepPpm (p : Desc) (gap : Nat) (d : Demod) : Demod :=
  if p.resetLimit.toNat < gap then d.terminateRow.stop
  else if p.gapLimit.toNat < gap then d.terminateRow
  else d.symbol p false (classify p gap)

/-- The ones a PCM pulse stands for, or none when it fails its test (R211). -/
def pcmOnes (p : Desc) (pulse : Nat) : Option Nat :=
  let t := p.longWidth.toNat
  let tol := p.tolerance.toNat
  if p.shortWidth = p.longWidth then
    let n := rnd pulse t
    if 1 ≤ n ∧ absDiff pulse (n * t) ≤ tol then some n else none
  else if absDiff pulse p.shortWidth.toNat ≤ tol then some 1 else none

/-- The zeros that follow a valid PCM pulse, or none when the gap fails its test (R211). -/
def pcmZeros (p : Desc) (pulse gap : Nat) : Option Nat :=
  let t := p.longWidth.toNat
  let tol := p.tolerance.toNat
  if p.shortWidth = p.longWidth then
    let n := rnd gap t
    if absDiff gap (n * t) ≤ tol then some n else none
  else
    let n := rnd (pulse + gap) t
    if 1 ≤ n ∧ absDiff (pulse + gap) (n * t) ≤ tol then some (n - 1) else none

/-- `Step_PCM(p, g)` (R211). -/
def stepPcm (p : Desc) (pulse gap : Nat) (d : Demod) : Demod :=
  let ones := pcmOnes p pulse
  let d := match ones with
    | some n => d.enter.emitRun true n
    | none => d.abortRow
  if p.resetLimit.toNat < gap then d.terminateRow.stop
  else if p.gapLimit.toNat < gap then d.terminateRow
  else match ones with
    | none => d
    | some _ =>
      match pcmZeros p pulse gap with
      | some n => d.emitRun false n
      | none => d.abortRow

/-- `nch(w)`: a run of one or two chips, or none when invalid (R213). -/
def chips (p : Desc) (w : Nat) : Option Nat :=
  let c := p.shortWidth.toNat
  let n := rnd w c
  if (n = 1 ∨ n = 2) ∧ absDiff w (n * c) ≤ p.tolerance.toNat then some n else none

/-- `Feed(v)` (R213, R214); the flag tells an abort. -/
def Demod.feed (diff : Bool) (v : Bool) (d : Demod) : Demod × Bool :=
  match d.pend with
  | none =>
    if diff = true ∧ d.prev = some v then (d.abortRow, true)
    else ({ d with pend := some v, st := .inMessage }, false)
  | some h =>
    if diff then ({ d.emit (h == v) with prev := some v, pend := none }, false)
    else if h = v then (d.abortRow, true)
    else ({ d.emit v with pend := none }, false)

/-- `repeat n times: Feed(v)`, left at an abort (R213). -/
def Demod.feedRun (diff : Bool) (v : Bool) : Nat → Demod → Demod × Bool
  | 0, d => (d, false)
  | n + 1, d =>
    match d.feed diff v with
    | (d, true) => (d, true)
    | (d, false) => Demod.feedRun diff v n d

/-- The chips of one run: an invalid run aborts the row (R213). -/
def Demod.run (diff : Bool) (v : Bool) (n : Option Nat) (d : Demod) : Demod × Bool :=
  match n with
  | none => (d.abortRow, true)
  | some n => d.feedRun diff v n

/-- `Close()` (R213): an open high half-bit is a 0. -/
def Demod.close (d : Demod) : Demod :=
  { (if d.pend = some true then d.emit false else d) with pend := none, prev := none }

/-- `Step_MC(p, g)`, the frame of both Manchester codings (R213, R214). -/
def stepMc (p : Desc) (diff : Bool) (pulse gap : Nat) (d : Demod) : Demod :=
  let (d, aborted) := d.run diff true (chips p pulse)
  if p.resetLimit.toNat < gap then d.close.terminateRow.stop
  else if p.gapLimit.toNat < gap then d.close.terminateRow
  else if aborted then d
  else (d.run diff false (chips p gap)).1

/-- `Step_CODING(p, g)`, chosen by `KIND[2:0]` (R205). Codes 5 to 7 are never registered (R245). -/
def stepPair (p : Desc) (pulse gap : Nat) (d : Demod) : Demod :=
  if p.coding = 0#3 then stepPwm p pulse gap d
  else if p.coding = 1#3 then stepPpm p gap d
  else if p.coding = 2#3 then stepPcm p pulse gap d
  else stepMc p (p.coding != 3#3) pulse gap d

/-- The pairs in index order, left at `END_OF_MESSAGE` (R205). -/
def demodPairs (p : Desc) : List (Nat × Nat) → Demod → Demod
  | [], d => d
  | (pulse, gap) :: rest, d =>
    let d := stepPair p pulse gap d
    if d.st = .endOfMessage then d else demodPairs p rest d

/-- `EndOfTrain()` (R215). -/
def Demod.endOfTrain (p : Desc) (d : Demod) : Demod :=
  (if p.coding = 3#3 ∨ p.coding = 4#3 then d.close else d).terminateRow.stop

/-- One whole demodulation of a train with a profile (R205, R215). -/
def demodTrain (p : Desc) (train : List (Nat × Nat)) : Demod :=
  let d := demodPairs p train Demod.start
  if d.st = .endOfMessage then d else d.endOfTrain p

/-- `Demodulate(c)`: fills `BB0` and sets `BB0TAG`, nothing else (R200, R205). -/
def State.demodulate (c : Nat) (s : State) : State :=
  { s with bb0 := (demodTrain (s.slot c) s.train).buf, tagV := true, tagSlot := BitVec.ofNat 8 c }

/-- `DEMOD` (R217). -/
def execDemod (s : State) : Result :=
  .next (if s.rst ≠ .locked ∨ s.dst = .waitDecode then s.refuse .state
    else if s.reg.length ≤ s.arg0.toNat ∨ Config.ptCap < s.ptLen.toNat then s.refuse .operand
    else
      let t := s.demodulate s.arg0.toNat
      (t.setRes0 (BitVec.ofNat 32 t.bb0.nrows)).accept)

end Sys2Proof.Machine
end

