-- ==== Sys2Proof/Machine/Dispatcher.lean ====
section
/-!
DEFINITION. The dispatcher (45_registry_dispatch.md R250 to R268).
-/

namespace Sys2Proof.Machine

/-- Set bit `i` of `TRIED` (R49). -/
def setTried (t : BitVec 256) (i : Nat) : BitVec 256 := t ||| BitVec.twoPow 256 i

/-- Set the `TRIED` bit of every registered slot with a property. -/
def State.markTried (x : Nat → Bool) (s : State) : State :=
  { s with tried := (List.range s.reg.length).foldl (fun t i => if x i then setTried t i else t) s.tried }

/-- The first slot in dispatch order with a property (R255): the least (signed priority, slot). -/
def State.firstSlot (s : State) (x : Nat → Bool) : Option Nat :=
  (List.range s.reg.length).foldl
    (fun best i =>
      if x i then
        match best with
        | none => some i
        | some b => if (s.slot i).priority.toInt < (s.slot b).priority.toInt then some i else some b
      else best)
    none

/-- `compatible(c, d)` on the two descriptors (R256): same coding, same carrier, each timing word of the decoder within the
decoder's own tolerance of the candidate's. -/
def compatible (c d : Desc) : Bool :=
  c.coding == d.coding
    && (c.carrier == d.carrier
    && (absDiff c.shortWidth.toNat d.shortWidth.toNat ≤ d.tolerance.toNat
    && (absDiff c.longWidth.toNat d.longWidth.toNat ≤ d.tolerance.toNat
    && (absDiff c.syncWidth.toNat d.syncWidth.toNat ≤ d.tolerance.toNat
    && (absDiff c.gapLimit.toNat d.gapLimit.toNat ≤ d.tolerance.toNat
    && absDiff c.resetLimit.toNat d.resetLimit.toNat ≤ d.tolerance.toNat)))))

/-- `eligible(i)` (R257). -/
def State.eligible (s : State) (i : Nat) : Bool :=
  decide (i < s.reg.length) && (!(s.slot i).disabled && !s.tried.getLsbD i)

/-- The first decoder for the buffer of candidate `c` (R259). -/
def State.firstDecoder (s : State) (c : Nat) : Option Nat :=
  s.firstSlot fun d => s.eligible d && compatible (s.slot c) (s.slot d)

/-- A decoder is selected (R259): `CUR`, its `TRIED` bit, `BB1` cleared, `FLIP` cleared, `WAIT_DECODE`. -/
def State.invoke (d : Nat) (s : State) : State :=
  { s with cur := BitVec.ofNat 8 d, tried := setTried s.tried d, bb1 := s.bb1.clear, flip := false, dst := .waitDecode }

/-- `CAND <- c ; Demodulate(c)` (R258). -/
def State.tryCandidate (c : Nat) (s : State) : State := { s with cand := BitVec.ofNat 8 c }.demodulate c

/-- `SelectCandidate()` (R258), the loop on fuel: each turn marks at least the candidate, so one turn more than there are
slots is enough; running out is `none` (log 6). The branch without a decoder is that of `SelectDecoder()` (R259). -/
def selectCandidate : Nat → State → Option State
  | 0, _ => none
  | n + 1, s =>
    match s.firstSlot s.eligible with
    | none => some { s with dst := .done }
    | some c =>
      let t := s.tryCandidate c
      if t.bb0.nrows = 0 then
        selectCandidate n (t.markTried fun d => t.eligible d && compatible (t.slot c) (t.slot d))
      else
        match t.firstDecoder c with
        | none => selectCandidate n t
        | some d => some (t.invoke d)

/-- `SelectCandidate()` with enough fuel. -/
def State.selectCandidate (s : State) : Option State := Machine.selectCandidate (s.reg.length + 1) s

/-- `SelectDecoder()` (R259). -/
def State.selectDecoder (s : State) : Option State :=
  match s.firstDecoder s.cand.toNat with
  | none => s.selectCandidate
  | some d => some (s.invoke d)

/-- The end of a command that ran the dispatcher: `STATUS <- 0`, or the fault of log 6. -/
def afterSelect : Option State → Result
  | some s => .next s.accept
  | none => .fault .dispatchLoop

/-- What `DSP_START` clears (R260). -/
def State.clearDispatch (s : State) : State :=
  { s with tried := 0, nrec := 0, natt := 0, nmatch := 0, last := 0, matchV := false, matchSlot := 0, flip := false }

/-- `DSP_START` (R260). -/
def execDspStart (s : State) : Result :=
  if s.rst ≠ .locked ∨ s.dst = .waitDecode then .next (s.refuse .state)
  else if Config.ptCap < s.ptLen.toNat then .next (s.refuse .operand)
  else afterSelect s.clearDispatch.selectCandidate

/-- The outcome as recorded: an undefined negative code is `FailOther` (R263, R264). -/
def normalise (v : Word) : Word := if -4 ≤ v.toInt then v else 0

/-- `BB0` as demodulated again: re-inverted when `FLIP` is set, and `FLIP` cleared (R162, R263). -/
def State.unflip (s : State) : State := { s with bb0 := if s.flip then s.bb0.invert else s.bb0, flip := false }

/-- `NATT`, `LAST` and the `EVT` event of a return (R263). -/
def State.recordOutcome (v : Word) (s : State) : State :=
  { s with natt := s.natt + 1, last := v,
           evt := s.evt ++ [{ cand := s.cand, cur := s.cur, outcome := v, level := eventLevel v }] }

/-- The counters and marks of a positive count (R263): `NREC`, `NMATCH`, `MATCH` if it is the first, and every decoder of
this buffer passed over. -/
def State.recordSuccess (v : Word) (s : State) : State :=
  { s with nrec := s.nrec + v, nmatch := s.nmatch + 1,
           matchSlot := if s.matchV then s.matchSlot else s.cur, matchV := true }.markTried
    fun d => compatible (s.slot s.cand.toNat) (s.slot d)

/-- `DSP_RETURN` (R263). -/
def execDspReturn (s : State) : Result :=
  if s.dst ≠ .waitDecode then .next (s.refuse .state)
  else
    let v := normalise s.arg0
    let t := s.unflip.recordOutcome v
    if 1 ≤ v.toInt then afterSelect (t.recordSuccess v).selectCandidate
    else afterSelect t.selectDecoder

/-- `DSP_ACK` (R265). -/
def execDspAck (s : State) : Result :=
  .next (if s.dst ≠ .done then s.refuse .state else { s with dst := .idle }.accept)

end Sys2Proof.Machine
end

