-- ==== Sys2Proof/Machine/Manchester.lean ====
section
/-!
DEFINITION. Second-stage Manchester and Differential-Manchester decode (43_manchester.md R190 to R193). A decode yields the
list of its output bits; source and destination differ, so appending them afterwards is the interleaved loop of the rules (log 14).
-/

namespace Sys2Proof.Machine

/-- The output bits of a Manchester decode of at most `max` pairs: the second half of each pair, ending at a pair of equal
halves, at a lone last bit or at the end (R191). -/
def manchBits : List Bool → Nat → List Bool
  | h1 :: h2 :: rest, n + 1 => if h1 == h2 then [] else h2 :: manchBits rest n
  | _, _ => []

/-- The output bits of a Differential-Manchester decode: 1 for no mid-cell transition; a cell that starts at the level the
previous one ended on ends the decode (R192). -/
def dmanchBits : Option Bool → List Bool → Nat → List Bool
  | prev, h1 :: h2 :: rest, n + 1 =>
    if prev = some h1 then [] else (h1 == h2) :: dmanchBits (some h2) rest n
  | _, _, _ => []

/-- The frame both commands share (R190): the checks in order, then the output bits appended to the destination's current
row, `RES0` the position reached, `RES1` the number of output bits. -/
def State.secondStage (src dst : Buf) (f : List Bool → Nat → List Bool) (s : State) : State :=
  if s.bufLocked dst then s.refuse .state
  else if src = dst then s.refuse .buf
  else s.onRow src s.arg0
    (let out := f (((s.buf src).row s.arg0.toNat).drop s.arg1.toNat) s.arg2.toNat
     (((s.setBuf dst ((s.buf dst).addBits out)).setRes0 (BitVec.ofNat 32 (s.arg1.toNat + 2 * out.length))).setRes1
        (BitVec.ofNat 32 out.length)).accept)

/-- `BB_MANCH.s.d` (R191). -/
def execBbManch (src dst : Buf) (s : State) : Result := .next (s.secondStage src dst manchBits)

/-- `BB_DMANCH.s.d` (R192). -/
def execBbDmanch (src dst : Buf) (s : State) : Result := .next (s.secondStage src dst (dmanchBits none))

end Sys2Proof.Machine
end

