-- ==== Sys2Proof/Machine/Registry.lean ====
section
/-!
DEFINITION. The registry commands (45_registry_dispatch.md R240 to R247).
-/

namespace Sys2Proof.Machine

/-- The validation of `REG_ADD` (R245). -/
def Desc.valid (d : Desc) : Bool :=
  d.kind &&& 0xFFFFFEE8#32 == 0#32
    && (d.coding ≤ 4#3
    && (1#32 ≤ d.shortWidth
    && ((3#3 ≤ d.coding || 1#32 ≤ d.longWidth)
    && (d.preambleBits ≤ 64#32
    && d.reserved == 0#32))))

/-- Every word of `REG` to 0, `NREG` to 0, `RST` to the given state (R242, R247). -/
def State.emptyRegistry (r : RegState) (s : State) : State := { s with reg := [], rst := r }

/-- `REG_INIT` (R242). -/
def execRegInit (s : State) : Result :=
  .next (if s.dst = .waitDecode then s.refuse .state else (s.emptyRegistry .opened).accept)

/-- `REG_ADD` (R245): state, operand, full, in this order. -/
def execRegAdd (s : State) : Result :=
  .next (if s.rst ≠ .opened then s.refuse .state
    else if s.desc.valid = false then s.refuse .operand
    else if s.reg.length = Config.regSlots then s.refuse .full
    else { s with reg := s.reg ++ [s.desc], res0 := s.nreg }.accept)

/-- `REG_LOCK` (R246). -/
def execRegLock (s : State) : Result :=
  .next (if s.rst ≠ .opened then s.refuse .state else { s with rst := .locked, res0 := s.nreg }.accept)

/-- `REG_TEARDOWN` (R247). -/
def execRegTeardown (s : State) : Result :=
  .next (if s.dst = .waitDecode then s.refuse .state else (s.emptyRegistry .uninit).accept)

end Sys2Proof.Machine
end

