-- ==== Sys2Proof/Machine/RowStore.lean ====
section
/-!
DEFINITION. Bit-buffer row store commands (41_bitbuffer_store.md R150 to R163).
-/

namespace Sys2Proof.Machine

/-- The first `n` bits of the scratch slice at offset `a` (R158, 00_scope.md R10). -/
def State.scrBits (s : State) (a n : Nat) : List Bool := (List.range n).map fun j => s.scrBit a j

/-- `BB_CLEAR.s` (R155): for `BB0`, `TAG_V` is cleared too and the tag's slot kept. -/
def execBbClear (b : Buf) (s : State) : Result :=
  .next (s.onUnlocked b
    (let t := s.setBuf b (s.buf b).clear
     (match b with
      | .bb0 => { t with tagV := false }
      | .bb1 => t).accept))

/-- `BB_ADDROW.s` (R156). -/
def execBbAddrow (b : Buf) (s : State) : Result :=
  .next (s.onUnlocked b (s.setBuf b (s.buf b).addRow).accept)

/-- `BB_ADDBIT.s` (R157): bit 0 of `ARG0`. -/
def execBbAddbit (b : Buf) (s : State) : Result :=
  .next (s.onUnlocked b (s.setBuf b ((s.buf b).addBit (s.arg0.getLsbD 0))).accept)

/-- `BB_ADDBITS.s` (R158): state check, then range check. -/
def execBbAddbits (b : Buf) (s : State) : Result :=
  .next (s.onUnlocked b
    (if inScr s.arg0.toNat (ceil8 s.arg1.toNat) then
      (s.setBuf b ((s.buf b).addBits (s.scrBits s.arg0.toNat s.arg1.toNat))).accept
     else s.refuse .range))

/-- `BB_INFO.s` (R159). -/
def execBbInfo (b : Buf) (s : State) : Result :=
  .next ((s.setRes0 (BitVec.ofNat 32 (s.buf b).nrows)).setRes1 ((BitVec.ofBool (s.buf b).ovf).setWidth 32)).accept

/-- `BB_ROWLEN.s` (R160). -/
def execBbRowlen (b : Buf) (s : State) : Result :=
  .next (s.onRow b s.arg0 (s.setRes0 (BitVec.ofNat 32 ((s.buf b).len s.arg0.toNat))).accept)

/-- `BB_GETBIT.s` (R161). -/
def execBbGetbit (b : Buf) (s : State) : Result :=
  .next (s.onRow b s.arg0
    (s.setRes0 ((BitVec.ofBool ((s.buf b).bit s.arg0.toNat s.arg1.toNat)).setWidth 32)).accept)

/-- `BB_INVERT.s` (R162): never refused; `BB0` under decode records the inversion in `FLIP`. -/
def execBbInvert (b : Buf) (s : State) : Result :=
  let t := s.setBuf b (s.buf b).invert
  .next (if s.bufLocked b then { t with flip := !s.flip } else t).accept

end Sys2Proof.Machine
end

