-- ==== Sys2Proof/Machine/Search.lean ====
section
/-!
DEFINITION. Bit-buffer search, extraction, comparison and voting commands (42_bitbuffer_search.md R170 to R177).
-/

namespace Sys2Proof.Machine

/-- The pattern's `n` bits match row `r` from offset `o` on (R171). -/
def BitBuf.matchesAt (b : BitBuf) (r o n : Nat) (pat : Nat → Bool) : Bool :=
  (List.range n).all fun j => b.bit r (o + j) == pat j

/-- The least offset from `start` on at which the whole pattern lies in the row and matches, else the row's length (R171).
The offsets tried are `start + i` for the `i` with `start + i + n` at most the length. -/
def BitBuf.search (b : BitBuf) (r start n : Nat) (pat : Nat → Bool) : Nat :=
  if n = 0 then b.len r
  else
    match (List.range (b.len r + 1 - n - start)).find? fun i => b.matchesAt r (start + i) n pat with
    | some i => start + i
    | none => b.len r

/-- Byte `j` of an extraction of `n` bits from offset `off` of row `r`: bits at or beyond `n` are 0 (R172). -/
def BitBuf.extractByte (b : BitBuf) (r off n j : Nat) : Byte :=
  packByte fun t => decide (8 * j + t < n) && b.bit r (off + (8 * j + t))

/-- The `ceil8(n)` bytes of an extraction (R172). -/
def BitBuf.extract (b : BitBuf) (r off n : Nat) : List Byte :=
  (List.range (ceil8 n)).map fun j => b.extractByte r off n j

/-- Rows `i` and `j` agree on their first `n` bits, read through `bit`. -/
def BitBuf.agree (b : BitBuf) (i j n : Nat) : Bool := (List.range n).all fun k => b.bit i k == b.bit j k

/-- The result of `BB_CMPROWS` (R173): both rows have `n` bits and agree on them. -/
def BitBuf.sameRows (b : BitBuf) (i j n : Nat) : Bool :=
  decide (n ≤ b.len i) && (decide (n ≤ b.len j) && b.agree i j n)

/-- `eqfull(i, j, M)` (R174). -/
def BitBuf.eqFull (b : BitBuf) (bound i j : Nat) : Bool :=
  decide (b.len i = b.len j) && b.agree i j (min (b.len i) bound)

/-- `eqpfx(i, j, M)` (R174). -/
def BitBuf.eqPfx (b : BitBuf) (bound i j : Nat) : Bool :=
  decide (min (b.len i) bound ≤ b.len j) && b.agree i j (min (b.len i) bound)

/-- How many rows stand in relation `eq` to row `i`, itself included (R175). -/
def BitBuf.copies (b : BitBuf) (eq : Nat → Nat → Bool) (i : Nat) : Nat :=
  ((List.range b.nrows).filter fun j => eq i j).length

/-- The first non-empty row with at least `m` copies, else 0xFFFFFFFF (R175, R176). -/
def BitBuf.vote (b : BitBuf) (eq : Nat → Nat → Bool) (m : Nat) : Word :=
  match (List.range b.nrows).find? fun i => decide (b.len i ≠ 0) && decide (m ≤ b.copies eq i) with
  | some i => BitVec.ofNat 32 i
  | none => 0xFFFFFFFF#32

/-- `BB_SEARCH.s` (R171): row check, then range check of the pattern. -/
def execBbSearch (b : Buf) (s : State) : Result :=
  .next (s.onRow b s.arg0
    (if inScr s.arg2.toNat (ceil8 s.arg3.toNat) then
      ((s.setRes0 (BitVec.ofNat 32
          ((s.buf b).search s.arg0.toNat s.arg1.toNat s.arg3.toNat fun j => s.scrBit s.arg2.toNat j))).setRes1
        (BitVec.ofNat 32 ((s.buf b).len s.arg0.toNat))).accept
     else s.refuse .range))

/-- `BB_EXTRACT.s` (R172): row check, then range check of the destination; no `RES` written. -/
def execBbExtract (b : Buf) (s : State) : Result :=
  .next (s.onRow b s.arg0
    (if inScr s.arg2.toNat (ceil8 s.arg3.toNat) then
      (s.writeScr s.arg2.toNat ((s.buf b).extract s.arg0.toNat s.arg1.toNat s.arg3.toNat)).accept
     else s.refuse .range))

/-- `BB_CMPROWS.s` (R173): either row missing is `ERR_ROW`. -/
def execBbCmprows (b : Buf) (s : State) : Result :=
  .next (s.onRow b s.arg0 (s.onRow b s.arg1
    (s.setRes0 ((BitVec.ofBool ((s.buf b).sameRows s.arg0.toNat s.arg1.toNat s.arg2.toNat)).setWidth 32)).accept))

/-- `BB_FINDREP.s` (R175). -/
def execBbFindrep (b : Buf) (s : State) : Result :=
  .next (s.setRes0 ((s.buf b).vote ((s.buf b).eqFull s.arg1.toNat) s.arg0.toNat)).accept

/-- `BB_FINDPFX.s` (R176). -/
def execBbFindpfx (b : Buf) (s : State) : Result :=
  .next (s.setRes0 ((s.buf b).vote ((s.buf b).eqPfx s.arg1.toNat) s.arg0.toNat)).accept

end Sys2Proof.Machine
end

