-- ==== Sys2Proof/Machine/System.lean ====
section
/-!
DEFINITION. The null command (30_encoding.md R110).
-/

namespace Sys2Proof.Machine

/-- `NOP` (R110): `STATUS <- 0`, nothing else. -/
def execNop (s : State) : Result := .next s.accept

end Sys2Proof.Machine
end

