-- ==== Sys2Proof/Machine/Dispatch.lean ====
section
/-!
DEFINITION. One arm per command: each is one call of its meaning.
-/

namespace Sys2Proof.Machine

-- The command's effect and its `STATUS`; `LASTCMD` is written where the word is issued (R100).
def exec (i : Instr) (s : State) : Host.Outcome State Fault Refusal :=
  match i with
  | .nop => Sys2Proof.Machine.execNop s
  | .crc8 => Sys2Proof.Machine.execCrc8 s
  | .crc8r => Sys2Proof.Machine.execCrc8r s
  | .crc16 => Sys2Proof.Machine.execCrc16 s
  | .crc16r => Sys2Proof.Machine.execCrc16r s
  | .xorb => Sys2Proof.Machine.execXorb s
  | .addb => Sys2Proof.Machine.execAddb s
  | .parb => Sys2Proof.Machine.execParb s
  | .lfsr8 => Sys2Proof.Machine.execLfsr8 s
  | .lfsr8r => Sys2Proof.Machine.execLfsr8r s
  | .lfsr16 => Sys2Proof.Machine.execLfsr16 s
  | .lfsr16r => Sys2Proof.Machine.execLfsr16r s
  | .refl8 => Sys2Proof.Machine.execRefl8 s
  | .reflb => Sys2Proof.Machine.execReflb s
  | .bbClear b => Sys2Proof.Machine.execBbClear b s
  | .bbAddrow b => Sys2Proof.Machine.execBbAddrow b s
  | .bbAddbit b => Sys2Proof.Machine.execBbAddbit b s
  | .bbAddbits b => Sys2Proof.Machine.execBbAddbits b s
  | .bbInfo b => Sys2Proof.Machine.execBbInfo b s
  | .bbRowlen b => Sys2Proof.Machine.execBbRowlen b s
  | .bbGetbit b => Sys2Proof.Machine.execBbGetbit b s
  | .bbInvert b => Sys2Proof.Machine.execBbInvert b s
  | .bbSearch b => Sys2Proof.Machine.execBbSearch b s
  | .bbExtract b => Sys2Proof.Machine.execBbExtract b s
  | .bbCmprows b => Sys2Proof.Machine.execBbCmprows b s
  | .bbFindrep b => Sys2Proof.Machine.execBbFindrep b s
  | .bbFindpfx b => Sys2Proof.Machine.execBbFindpfx b s
  | .bbManch src dst => Sys2Proof.Machine.execBbManch src dst s
  | .bbDmanch src dst => Sys2Proof.Machine.execBbDmanch src dst s
  | .demod => Sys2Proof.Machine.execDemod s
  | .regInit => Sys2Proof.Machine.execRegInit s
  | .regAdd => Sys2Proof.Machine.execRegAdd s
  | .regLock => Sys2Proof.Machine.execRegLock s
  | .regTeardown => Sys2Proof.Machine.execRegTeardown s
  | .dspStart => Sys2Proof.Machine.execDspStart s
  | .dspReturn => Sys2Proof.Machine.execDspReturn s
  | .dspAck => Sys2Proof.Machine.execDspAck s

end Sys2Proof.Machine
end

