-- ==== Sys2Proof/Machine/Bus.lean ====
section
/-!
DEFINITION. The slave bus (20_memory.md R70 to R78, 10_state.md R26): the address map, the bus-error tests, reads, writes, the
issue of a command word, and `RESET` (70_reset_and_hazards.md R310).
-/

namespace Sys2Proof.Machine

/-- The registers of the register page (10_state.md R26). -/
inductive PageReg where
  | id
  | cap0
  | cap1
  | cap2
  | cmd
  | status
  | res0
  | res1
  | arg0
  | arg1
  | arg2
  | arg3
  | ptLen
  | ie
  | dstate
  | nreg
  | nrec
  | natt
  | nmatch
  | last
  | matchReg
  | bb0tag
  | desc (w : Nat)
deriving DecidableEq, Repr

/-- What a bus address names (20_memory.md R71). `REG` is named by slot and word. -/
inductive Target where
  | page (r : PageReg)
  | scr
  | pt
  | reg (slot word : Nat)
deriving DecidableEq, Repr

/-- Why an access ends with an error response, in test order (20_memory.md R76); not part of the answer (log 11). -/
inductive BusFault where
  | unmapped
  | size
  | misaligned
  | readOnly
  | frozen
deriving DecidableEq, Repr

/-- The bytes an access moves (R74). -/
def Size.bytes : Size → Nat
  | .one => 1
  | .two => 2
  | .four => 4

/-- The named offsets of the register page below `DESC` (10_state.md R26). -/
def pageTable : List (Nat × PageReg) :=
  [ (0x00, .id), (0x04, .cap0), (0x08, .cap1), (0x0C, .cap2), (0x10, .cmd), (0x14, .status), (0x18, .res0), (0x1C, .res1),
    (0x20, .arg0), (0x24, .arg1), (0x28, .arg2), (0x2C, .arg3), (0x30, .ptLen), (0x34, .ie), (0x38, .dstate),
    (0x3C, .nreg), (0x40, .nrec), (0x44, .natt), (0x48, .nmatch), (0x4C, .last), (0x50, .matchReg), (0x54, .bb0tag) ]

/-- The register that holds the byte at an offset of the register page; a register is four bytes (10_state.md R26). -/
def pageReg (a : Nat) : Option PageReg :=
  let off := 4 * (a / 4)
  if 0x80 ≤ off ∧ off < 0xC0 then some (.desc ((off - 0x80) / 4))
  else (pageTable.find? fun e => e.1 == off).map fun e => e.2

/-- The address map (20_memory.md R71); none where unmapped. -/
def targetOf (a : Nat) : Option Target :=
  if a < 0x100 then (pageReg a).map .page
  else if Config.scrBase ≤ a ∧ a < Config.scrBase + Config.scrBytes then some .scr
  else if Config.ptBase ≤ a ∧ a < Config.regBase then some .pt
  else if Config.regBase ≤ a ∧ a < Config.busEnd then
    some (.reg ((a - Config.regBase) / 64) ((a - Config.regBase) % 64 / 4))
  else none

/-- A target no write changes (20_memory.md R76 test 4). -/
def Target.readOnly : Target → Bool
  | .page r =>
    match r with
    | .cmd => false
    | .arg0 => false
    | .arg1 => false
    | .arg2 => false
    | .arg3 => false
    | .ptLen => false
    | .ie => false
    | .desc _ => false
    | _ => true
  | .scr => false
  | .pt => false
  | .reg _ _ => true

/-- A target that is frozen in `WAIT_DECODE` (20_memory.md R76 test 5). -/
def Target.frozenInDispatch : Target → Bool
  | .page .ptLen => true
  | .pt => true
  | _ => false

/-- The bus-error tests of R76 in their order, for a read or a write: the target, or why there is none. -/
def State.busCheck (s : State) (isWrite : Bool) (size : Size) (a : Nat) : Except BusFault Target :=
  match targetOf a with
  | none => .error .unmapped
  | some t =>
    if t ≠ .scr ∧ size ≠ .four then .error .size
    else if a % size.bytes ≠ 0 then .error .misaligned
    else if isWrite ∧ t.readOnly then .error .readOnly
    else if isWrite ∧ t.frozenInDispatch ∧ s.dst = .waitDecode then .error .frozen
    else .ok t

/-- What a read of a register returns (10_state.md R21 to R39, R44, R47). -/
def State.readPage (s : State) : PageReg → Word
  | .id => Config.idWord
  | .cap0 => BitVec.ofNat 32 (Config.rowCapBits + Config.maxRows * 2 ^ 16 + Config.numBuffers * 2 ^ 24)
  | .cap1 => BitVec.ofNat 32 (Config.regSlots + Config.ptCap * 2 ^ 16)
  | .cap2 => BitVec.ofNat 32 Config.scrBytes
  | .cmd => s.lastCmd
  | .status => s.status
  | .res0 => s.res0
  | .res1 => s.res1
  | .arg0 => s.arg0
  | .arg1 => s.arg1
  | .arg2 => s.arg2
  | .arg3 => s.arg3
  | .ptLen => s.ptLen
  | .ie => s.ieWord
  | .dstate => s.dstate
  | .nreg => s.nreg
  | .nrec => s.nrec
  | .natt => s.natt
  | .nmatch => s.nmatch
  | .last => s.last
  | .matchReg => s.matchWord
  | .bb0tag => s.bb0tag
  | .desc w => s.desc.word w

/-- What a read of a target returns, zero-extended (R72, R75): a register, bytes of `SCR` or `PT` in little-endian order, or
a registry word, zero in a slot at or above `NREG` (R45). -/
def State.readTarget (s : State) (size : Size) (a : Nat) : Target → Word
  | .page r => s.readPage r
  | .scr => leWord (s.bytesAt a size.bytes)
  | .pt => leWord (s.bytesAt a size.bytes)
  | .reg i w => (s.slot i).word w

/-- A write to a register other than `CMD`: it stores the data and does nothing else (R75); `IE` keeps bits [1:0] (R30). -/
def State.writePage (v : Word) (s : State) : PageReg → State
  | .arg0 => { s with arg0 := v }
  | .arg1 => { s with arg1 := v }
  | .arg2 => { s with arg2 := v }
  | .arg3 => { s with arg3 := v }
  | .ptLen => { s with ptLen := v }
  | .ie => { s with ie := v.setWidth 2 }
  | .desc w => { s with desc := s.desc.setWord v w }
  | .id => s
  | .cap0 => s
  | .cap1 => s
  | .cap2 => s
  | .cmd => s
  | .status => s
  | .res0 => s
  | .res1 => s
  | .dstate => s
  | .nreg => s
  | .nrec => s
  | .natt => s
  | .nmatch => s
  | .last => s
  | .matchReg => s
  | .bb0tag => s

/-- A command word written to `CMD` (30_encoding.md R100, R104): `LASTCMD`, then decode, then the command or its refusal. -/
def State.issue (w : Word) (s : State) : Result :=
  let t := { s with lastCmd := w }
  match decode w with
  | .ok i => exec i t
  | .error .unknownOpcode => .next (t.refuse .opcode)
  | .error .reservedField => .next (t.refuse .field)

/-- A write that passed the tests of R76. -/
def State.writeTarget (size : Size) (a : Nat) (v : Word) (s : State) : Target → Result
  | .page r => if r = .cmd then s.issue v else .next (s.writePage v r)
  | .scr => .next (s.writeBytesAt a (leBytes size.bytes v))
  | .pt => .next (s.writeBytesAt a (leBytes size.bytes v))
  | .reg _ _ => .next s

/-- The answer of the bus (log 2). -/
def State.answer (r : Response) (s : State) : State := { s with resp := r }

/-- `RESET` (R310): every state element takes its reset value. The contents of `SCR` and `PT` are those of a new epoch (93
U1; log 3); what HOST has yet to do and the events already emitted are no state of the block (log 1, log 8). -/
def State.resetAgain (s : State) : State :=
  { State.reset with requests := s.requests, evt := s.evt, epoch := s.epoch + 1 }

/-- Serve one request (00_scope.md R6), already taken off the pending list. -/
def State.serve (r : Request) (s : State) : Result :=
  match r with
  | .reset => .next s.resetAgain
  | .read size a =>
    match s.busCheck false size a.toNat with
    | .error _ => .next (s.answer .busError)
    | .ok t => .next (s.answer (.data (s.readTarget size a.toNat t)))
  | .write size a v =>
    match s.busCheck true size a.toNat with
    | .error _ => .next (s.answer .busError)
    | .ok t => (s.answer .done).writeTarget size a.toNat v t

/-- Serve the oldest pending request; with none pending the block does nothing (R310; log 1). -/
def State.serveNext (s : State) : Result :=
  match s.requests with
  | [] => .next s
  | r :: rest => { s with requests := rest }.serve r

/-- HOST's next access is the write of a command word to `CMD` (R100), before whatever was pending. -/
def State.presentCommand (w : Word) (s : State) : State := { s with requests := .write .four 0x10#15 w :: s.requests }

end Sys2Proof.Machine
end

