-- ==== Sys2Proof/Machine/Step.lean ====
section
/-!
DEFINITION. The step: one HOST bus access with all its consequences, or one `RESET` (00_scope.md R6).
-/

namespace Sys2Proof.Machine

/-- One step (R6): the oldest pending request is served. -/
def step (s : State) : Host.Outcome State Fault Refusal := s.serveNext

/-- `s` with a command word, given as a number, presented as HOST's next write to `CMD`: the block fetches nothing from
memory, a command is the data of that write (10_state.md R23; log 1). -/
def State.withFetchWord (s : State) (nbits w : Nat) : State := s.presentCommand (BitVec.ofNat 32 (w % 2 ^ nbits))

end Sys2Proof.Machine
end

