-- ==== Sys2Proof/Safety.lean ====
section
/-!
DEFINITION. The terms the statements are written in: the invariant of a run, the checks of 60_exceptions.md R282 as one table,
the bus errors of 20_memory.md R76 as ranges, and reference forms of what the commands compute, each written from its rule and
apart from the meaning it is compared with.
-/

namespace Sys2Proof.Machine

/-! ## The invariant of a run -/

/-- A bit buffer within capacity (10_state.md R41): at most `MAX_ROWS` rows of at most `ROW_CAP_BITS` bits, and `OVF` set only
in a buffer with `MAX_ROWS` rows (41_bitbuffer_store.md R153). -/
def BitBuf.fits (b : BitBuf) : Prop :=
  b.rows.length ≤ Config.maxRows ∧ (∀ row ∈ b.rows, row.length ≤ Config.rowCapBits) ∧
    (b.ovf = true → b.rows.length = Config.maxRows)

/-- How many registered slots have been dealt with in this dispatch (10_state.md R49). -/
def State.triedCount (s : State) : Nat := ((List.range s.reg.length).filter fun i => s.tried.getLsbD i).length

/-- What holds in every state a run from reset reaches. -/
structure State.Inv (s : State) : Prop where
  /-- written bytes in canonical form (log 5) -/
  memory : Memory.wf s.mem = true
  /-- `BB0` within capacity (R41) -/
  bb0Fits : s.bb0.fits
  /-- `BB1` within capacity (R41) -/
  bb1Fits : s.bb1.fits
  /-- at most `REG_SLOTS` descriptors (R47) -/
  slots : s.reg.length ≤ Config.regSlots
  /-- every registered slot passed validation (R46: "so every registered slot satisfies them") -/
  valid : ∀ d ∈ s.reg, d.valid = true
  /-- an uninitialised registry is empty (R241) -/
  uninitEmpty : s.rst = .uninit → s.reg = []
  /-- R241: "`DST = WAIT_DECODE` implies `RST = LOCKED`" -/
  waitLocked : s.dst = .waitDecode → s.rst = .locked
  /-- the train of a running dispatch fits (R260; frozen by R76) -/
  waitTrain : s.dst = .waitDecode → s.ptLen.toNat ≤ Config.ptCap
  /-- `CAND` and `CUR` name registered slots during a dispatch, and `CUR` has been invoked (R259) -/
  waitSlots : s.dst = .waitDecode →
    s.cand.toNat < s.reg.length ∧ s.cur.toNat < s.reg.length ∧ s.tried.getLsbD s.cur.toNat = true
  /-- the buffer under decode has a row and carries the candidate's tag (R258, R205) -/
  waitBuffer : s.dst = .waitDecode → 0 < s.bb0.rows.length ∧ s.tagV = true ∧ s.tagSlot = s.cand
  /-- R48: outside `WAIT_DECODE` `FLIP` is 0 -/
  flipWait : s.flip = true → s.dst = .waitDecode
  /-- codes 9 and above never occur (R281) -/
  statusCode : s.status.toNat ≤ 8
  /-- one more slot is dealt with than invocations completed (R267) -/
  waitCount : s.dst = .waitDecode → s.natt.toNat + 1 ≤ s.triedCount
  /-- matches are attempts, and there are at most as many as slots (R35, R267) -/
  counts : s.nmatch.toNat ≤ s.natt.toNat ∧ s.natt.toNat ≤ Config.regSlots
  /-- `MATCH_V` is set exactly when some invocation matched (R37) -/
  matched : s.matchV = true ↔ s.nmatch ≠ 0

/-! ## The checks of a command -/

/-- Check 3 of R282, by command: the states `DST`, `RST` that R163 and R241 forbid it in. -/
def stateForbids (i : Instr) (s : State) : Bool :=
  let waiting := s.dst == .waitDecode
  match i with
  | .bbClear b => b == .bb0 && waiting
  | .bbAddrow b => b == .bb0 && waiting
  | .bbAddbit b => b == .bb0 && waiting
  | .bbAddbits b => b == .bb0 && waiting
  | .bbManch _ d => d == .bb0 && waiting
  | .bbDmanch _ d => d == .bb0 && waiting
  | .demod => s.rst != .locked || waiting
  | .regInit => waiting
  | .regAdd => s.rst != .opened
  | .regLock => s.rst != .opened
  | .regTeardown => waiting
  | .dspStart => s.rst != .locked || waiting
  | .dspReturn => !waiting
  | .dspAck => s.dst != .done
  | _ => false

/-- Check 4 of R282: source and destination buffer are the same. -/
def sameBuffer : Instr → Bool
  | .bbManch b d => b == d
  | .bbDmanch b d => b == d
  | _ => false

/-- Check 5 of R282: a row operand is not below `NROWS` of the selected buffer. -/
def rowMissing (i : Instr) (s : State) : Bool :=
  let missing (b : BitBuf) (r : Word) : Bool := b.rows.length ≤ r.toNat
  match i with
  | .bbRowlen b => missing (s.buf b) s.arg0
  | .bbGetbit b => missing (s.buf b) s.arg0
  | .bbSearch b => missing (s.buf b) s.arg0
  | .bbExtract b => missing (s.buf b) s.arg0
  | .bbCmprows b => missing (s.buf b) s.arg0 || missing (s.buf b) s.arg1
  | .bbManch b _ => missing (s.buf b) s.arg0
  | .bbDmanch b _ => missing (s.buf b) s.arg0
  | _ => false

/-- Check 6 of R282: a scratch slice does not lie inside `SCR`. -/
def sliceOutside (i : Instr) (s : State) : Bool :=
  let bytes : Bool := 1024 < s.arg0.toNat + s.arg1.toNat
  match i with
  | .crc8 => bytes
  | .crc8r => bytes
  | .crc16 => bytes
  | .crc16r => bytes
  | .xorb => bytes
  | .addb => bytes
  | .parb => bytes
  | .lfsr8 => bytes
  | .lfsr8r => bytes
  | .lfsr16 => bytes
  | .lfsr16r => bytes
  | .reflb => bytes
  | .bbAddbits _ => 1024 < s.arg0.toNat + (s.arg1.toNat + 7) / 8
  | .bbSearch _ => 1024 < s.arg2.toNat + (s.arg3.toNat + 7) / 8
  | .bbExtract _ => 1024 < s.arg2.toNat + (s.arg3.toNat + 7) / 8
  | _ => false

/-- Check 7 of R282: an operand value is not acceptable. -/
def operandBad (i : Instr) (s : State) : Bool :=
  match i with
  | .demod => s.reg.length ≤ s.arg0.toNat || 1024 < s.ptLen.toNat
  | .dspStart => 1024 < s.ptLen.toNat
  | .regAdd => !s.desc.valid
  | _ => false

/-- Check 8 of R282: the registry is full. -/
def registryFull (i : Instr) (s : State) : Bool :=
  match i with
  | .regAdd => s.reg.length == 256
  | _ => false

/-- The value `STATUS` takes: the first check of R282 that fails, in the numeric order of the codes, else 0. -/
def checkCode (i : Instr) (s : State) : Word :=
  if stateForbids i s then 3
  else if sameBuffer i then 4
  else if rowMissing i s then 5
  else if sliceOutside i s then 6
  else if operandBad i s then 7
  else if registryFull i s then 8
  else 0

/-- The 37 opcodes of 30_encoding.md R103. -/
def definedOpcodes : List Nat :=
  [0x00, 0x10, 0x11, 0x12, 0x13, 0x14, 0x15, 0x16, 0x18, 0x19, 0x1A, 0x1B, 0x1C, 0x1D] ++
    ([0x20, 0x21, 0x22, 0x23, 0x24, 0x25, 0x26, 0x27, 0x28, 0x29, 0x2A, 0x2B, 0x2C] ++
      [0x30, 0x31, 0x38, 0x40, 0x41, 0x42, 0x43, 0x48, 0x49, 0x4A])

/-! ## The bus -/

/-- The addresses of 20_memory.md R71 and 10_state.md R26. -/
def mapped (a : Nat) : Prop :=
  a < 0x58 ∨ (0x80 ≤ a ∧ a < 0xC0) ∨ (0x400 ≤ a ∧ a < 0x800) ∨ (0x2000 ≤ a ∧ a < 0x8000)

/-- The read-only targets of 20_memory.md R76 test 4, by address. -/
def writeProtected (a : Nat) : Prop :=
  a < 0x10 ∨ (0x14 ≤ a ∧ a < 0x20) ∨ (0x38 ≤ a ∧ a < 0x58) ∨ (0x4000 ≤ a ∧ a < 0x8000)

/-- An access at `a` that ends in a bus error (20_memory.md R76): one of the five tests holds. -/
def State.accessErrs (s : State) (isWrite : Bool) (size : Size) (a : Nat) : Prop :=
  ¬ mapped a ∨ (size ≠ .four ∧ ¬ (0x400 ≤ a ∧ a < 0x800)) ∨ a % size.bytes ≠ 0 ∨
    (isWrite = true ∧ writeProtected a) ∨
    (isWrite = true ∧ ((0x30 ≤ a ∧ a < 0x34) ∨ (0x2000 ≤ a ∧ a < 0x4000)) ∧ s.dst = .waitDecode)

/-! ## The register page -/

/-- The number `DSTATE` holds for a sequencing state (10_state.md R32). -/
def dstNumber : DispState → Nat
  | .idle => 0
  | .waitDecode => 1
  | .done => 2

/-- The number `DSTATE` holds for a registry state (10_state.md R32). -/
def rstNumber : RegState → Nat
  | .uninit => 0
  | .opened => 1
  | .locked => 2

/-- The sixteen words of a descriptor, word 0 first (10_state.md R46). -/
def descWords (d : Desc) : List Word :=
  [d.kind, d.priority, d.shortWidth, d.longWidth, d.syncWidth, d.gapLimit, d.resetLimit, d.tolerance] ++
    [d.bits, d.preambleBits, d.preamble0, d.preamble1, d.decodeFn, d.name, d.fields, d.reserved]

/-- The word whose bytes lie at an address and above, least significant byte lowest (20_memory.md R72). -/
def State.wordAt (s : State) (a : Nat) : Nat :=
  (s.byteAt a).toNat + 2 ^ 8 * (s.byteAt (a + 1)).toNat + 2 ^ 16 * (s.byteAt (a + 2)).toNat +
    2 ^ 24 * (s.byteAt (a + 3)).toNat

/-! ## Checksums -/

/-- One message bit of the MSB-first polynomial division (40_checksum.md R121), the register shifted once per bit. -/
def serialStep {w : Nat} (poly rem : BitVec w) (v : Bool) : BitVec w :=
  if rem.msb != v then (rem <<< 1) ^^^ poly else rem <<< 1

/-- The remainder of the bits of a message, one by one (40_checksum.md R121, R123). -/
def serialCrc {w : Nat} (poly init : BitVec w) (bits : List Bool) : BitVec w := bits.foldl (serialStep poly) init

/-- One key step toward bit 0: the bit shifted out, when 1, folds the generator in (40_checksum.md R129, R131). -/
def keyStepDown {w : Nat} (gen key : BitVec w) : BitVec w := if key.getLsbD 0 then (key >>> 1) ^^^ gen else key >>> 1

/-- One key step toward the top bit, the test on the top bit (40_checksum.md R130, R132). -/
def keyStepUp {w : Nat} (gen key : BitVec w) : BitVec w := if key.getLsbD (w - 1) then (key <<< 1) ^^^ gen else key <<< 1

/-- The key after `k` steps (40_checksum.md R129). -/
def keyAfter {w : Nat} (step : BitVec w → BitVec w) (key : BitVec w) : Nat → BitVec w
  | 0 => key
  | k + 1 => step (keyAfter step key k)

/-- The exclusive-or of the keys at the positions whose message bit is 1 (40_checksum.md R129). -/
def keySum {w : Nat} (step : BitVec w → BitVec w) (key : BitVec w) (bits : List Bool) : BitVec w :=
  (((List.range bits.length).filter fun k => bits.getD k false).map (keyAfter step key)).foldr (fun a b => a ^^^ b) 0

/-! ## Rows -/

/-- Rows `i` and `j` have the same length and agree on the first `bound` bits (42_bitbuffer_search.md R174 `eqfull`). -/
def BitBuf.FullCopy (b : BitBuf) (bound i j : Nat) : Prop :=
  b.len i = b.len j ∧ ∀ k, k < b.len i → k < bound → b.bit i k = b.bit j k

/-- Row `j` contains the first `bound` bits of row `i` (42_bitbuffer_search.md R174 `eqpfx`). -/
def BitBuf.PrefixCopy (b : BitBuf) (bound i j : Nat) : Prop :=
  min (b.len i) bound ≤ b.len j ∧ ∀ k, k < b.len i → k < bound → b.bit i k = b.bit j k

/-- At least `m` rows of a buffer of `n` rows stand in relation `R` to row `i` (42_bitbuffer_search.md R175). -/
def HasCopies (n m i : Nat) (R : Nat → Nat → Prop) : Prop :=
  ∃ l : List Nat, l.Nodup ∧ m ≤ l.length ∧ ∀ j ∈ l, j < n ∧ R i j

/-- The result of a vote (42_bitbuffer_search.md R175): the first non-empty row with at least `m` copies, or the marker. -/
def BitBuf.VoteResult (b : BitBuf) (m : Nat) (R : Nat → Nat → Prop) (res : Word) : Prop :=
  let wins (i : Nat) : Prop := i < b.rows.length ∧ b.len i ≠ 0 ∧ HasCopies b.rows.length m i R
  (∃ i, wins i ∧ (∀ j, j < i → ¬ wins j) ∧ res = BitVec.ofNat 32 i) ∨ ((∀ i, ¬ wins i) ∧ res = 0xFFFFFFFF#32)

/-- The pattern of `n` bits lies inside row `r` at offset `o` at or after `start`, and matches (42_bitbuffer_search.md R171). -/
def BitBuf.MatchAt (b : BitBuf) (r start n : Nat) (pat : Nat → Bool) (o : Nat) : Prop :=
  start ≤ o ∧ o + n ≤ b.len r ∧ ∀ j, j < n → b.bit r (o + j) = pat j

/-! ## Line codes -/

/-- The Manchester encoder (43_manchester.md R193). -/
def menc : List Bool → List Bool
  | [] => []
  | v :: vs => (!v) :: v :: menc vs

/-- The Differential-Manchester encoder from a starting level (43_manchester.md R193). -/
def dmenc : Bool → List Bool → List Bool
  | _, [] => []
  | lv, v :: vs =>
    let h1 := !lv
    let h2 := if v then h1 else !h1
    h1 :: h2 :: dmenc h2 vs

/-- `cnt` pairs of the row from `start` are Manchester symbols with the bits `out`, and the loop of 43_manchester.md R191
stops there: the limit is reached, no whole pair is left, or the next pair has equal halves. -/
def manchStops (bit : Nat → Bool) (len start limit cnt : Nat) (out : List Bool) : Prop :=
  out.length = cnt ∧ cnt ≤ limit ∧
    (∀ i, i < cnt → start + 2 * i + 1 < len ∧ bit (start + 2 * i) ≠ bit (start + 2 * i + 1) ∧
      out.getD i false = bit (start + 2 * i + 1)) ∧
    (cnt = limit ∨ len ≤ start + 2 * cnt + 1 ∨ bit (start + 2 * cnt) = bit (start + 2 * cnt + 1))

/-- The same for the loop of 43_manchester.md R192: the value of a cell is 1 when its halves are equal, and a cell that starts
at the level the one before it ended on stops the decode. -/
def dmanchStops (bit : Nat → Bool) (len start limit cnt : Nat) (out : List Bool) : Prop :=
  out.length = cnt ∧ cnt ≤ limit ∧
    (∀ i, i < cnt → start + 2 * i + 1 < len ∧ (i ≠ 0 → bit (start + 2 * i - 1) ≠ bit (start + 2 * i)) ∧
      out.getD i false = (bit (start + 2 * i) == bit (start + 2 * i + 1))) ∧
    (cnt = limit ∨ len ≤ start + 2 * cnt + 1 ∨ (cnt ≠ 0 ∧ bit (start + 2 * cnt - 1) = bit (start + 2 * cnt)))

/-! ## Demodulation -/

/-- The profile has a reference of width `r` for the class `k` (44_demodulator.md R204): `SYNC` only when it is not 0. -/
def Desc.HasReference (p : Desc) (k : Sym) (r : Nat) : Prop :=
  (k = .short ∧ r = p.shortWidth.toNat) ∨ (k = .long ∧ r = p.longWidth.toNat) ∨
    (k = .sync ∧ p.syncWidth ≠ 0 ∧ r = p.syncWidth.toNat)

/-- Two profiles with the same coding, widths, limits and tolerance (44_demodulator.md R201). -/
def Desc.SameTimings (p q : Desc) : Prop :=
  p.coding = q.coding ∧ p.shortWidth = q.shortWidth ∧ p.longWidth = q.longWidth ∧ p.syncWidth = q.syncWidth ∧
    p.gapLimit = q.gapLimit ∧ p.resetLimit = q.resetLimit ∧ p.tolerance = q.tolerance

/-- A gap beyond neither limit of a profile (44_demodulator.md R207). -/
def Desc.InsideLimits (p : Desc) (gap : Nat) : Prop := gap ≤ p.gapLimit.toNat ∧ gap ≤ p.resetLimit.toNat

/-- The chip levels of a train given as runs of chips: each pulse high, each gap low (44_demodulator.md R213). -/
def runChips (runs : List (Nat × Nat)) : List Bool :=
  runs.flatMap fun r => List.replicate r.1 true ++ List.replicate r.2 false

/-! ### What a train leaves in the buffer

A demodulation is given as a list of outputs, `some v` a bit and `none` the end of a row; the rows follow from it. -/

/-- The rows of a list of outputs after the bits `row` of a row under way: a row opens at its first bit, so none is empty
(44_demodulator.md R206). -/
def rowsFrom (row : List Bool) : List (Option Bool) → List (List Bool)
  | [] => if row = [] then [] else [row]
  | some v :: rest => rowsFrom (row ++ [v]) rest
  | none :: rest => (if row = [] then [] else [row]) ++ rowsFrom [] rest

/-- The rows as stored: 25 rows of 4096 bits at most, `OVF` when a further row was asked for (44_demodulator.md R206, R216). -/
def stored (rows : List (List Bool)) : BitBuf :=
  { rows := (rows.take 25).map fun row => row.take 4096, ovf := decide (25 < rows.length) }

/-- What PWM and PPM meet in a train: a data bit, a sync symbol, a width of no class, a gap beyond a limit. -/
inductive Mark where
  | bit (v : Bool)
  | sync
  | bad
  | boundary
deriving DecidableEq, Repr

/-- The mark of a class (44_demodulator.md R209, R210): `short` is the bit of a short symbol. -/
def markOf (short : Bool) : Sym → Mark
  | .short => .bit short
  | .long => .bit (!short)
  | .sync => .sync
  | .none => .bad

/-- The marks of a PWM train (44_demodulator.md R209): each pulse a symbol, short is 1, also before a boundary gap; nothing
after a gap beyond the reset limit. -/
def pwmMarks (p : Desc) : List (Nat × Nat) → List Mark
  | [] => []
  | (pulse, gap) :: rest =>
    markOf true (classify p pulse) ::
      if p.resetLimit.toNat < gap then []
      else if p.gapLimit.toNat < gap then .boundary :: pwmMarks p rest
      else pwmMarks p rest

/-- The marks of a PPM train (44_demodulator.md R210): each gap a symbol, short is 0, a boundary gap none. -/
def ppmMarks (p : Desc) : List (Nat × Nat) → List Mark
  | [] => []
  | (_, gap) :: rest =>
    if p.resetLimit.toNat < gap then []
    else if p.gapLimit.toNat < gap then .boundary :: ppmMarks p rest
    else markOf false (classify p gap) :: ppmMarks p rest

/-- The outputs of a list of marks (44_demodulator.md R208). `on`: data bits are heard. In a profile with a sync symbol (`sync`)
they are from a sync symbol to the next bad width, in one without always; a sync symbol, a bad width and a boundary end the row. -/
def outputs (sync : Bool) : Bool → List Mark → List (Option Bool)
  | _, [] => []
  | true, .bit v :: rest => some v :: outputs sync true rest
  | false, .bit _ :: rest => outputs sync false rest
  | _, .sync :: rest => none :: outputs sync true rest
  | _, .bad :: rest => none :: outputs sync (!sync) rest
  | on, .boundary :: rest => none :: outputs sync on rest

/-- The rows of a list of marks; the profile has a sync symbol when `SYNC_WIDTH` is not 0 (44_demodulator.md R208). -/
def Desc.rowsOfMarks (p : Desc) (marks : List Mark) : List (List Bool) :=
  rowsFrom [] (outputs (p.syncWidth != 0) (p.syncWidth == 0) marks)

/-- `n` equal bits if a test passed, else the end of the row (44_demodulator.md R211). -/
def bitsIf (ok : Bool) (n : Nat) (v : Bool) : List (Option Bool) := if ok then List.replicate n (some v) else [none]

/-- The number of ones of a PCM pulse, and whether it is valid (44_demodulator.md R211 `n1`, `ok1`). -/
def Desc.pulseOnes (p : Desc) (pulse : Nat) : Nat × Bool :=
  let period := p.longWidth.toNat
  let n := rnd pulse period
  if p.shortWidth = p.longWidth then (n, decide (1 ≤ n ∧ ((pulse : Int) - n * period).natAbs ≤ p.tolerance.toNat))
  else (1, decide (((pulse : Int) - p.shortWidth.toNat).natAbs ≤ p.tolerance.toNat))

/-- The number of zeros of the gap after a valid pulse, and whether it is valid (44_demodulator.md R211 `n0`, `ok0`). -/
def Desc.gapZeros (p : Desc) (pulse gap : Nat) : Nat × Bool :=
  let period := p.longWidth.toNat
  if p.shortWidth = p.longWidth then
    let n := rnd gap period
    (n, decide (((gap : Int) - n * period).natAbs ≤ p.tolerance.toNat))
  else
    let n := rnd (pulse + gap) period
    (n - 1, decide (1 ≤ n ∧ ((pulse : Int) + gap - n * period).natAbs ≤ p.tolerance.toNat))

/-- The outputs of a PCM train (44_demodulator.md R211): a boundary gap ends the row without zeros, and the gap after a bad
pulse is tested against the limits only. -/
def pcmOutputs (p : Desc) : List (Nat × Nat) → List (Option Bool)
  | [] => []
  | (pulse, gap) :: rest =>
    let ones := p.pulseOnes pulse
    let zeros := p.gapZeros pulse gap
    bitsIf ones.2 ones.1 true ++
      if p.resetLimit.toNat < gap then []
      else if p.gapLimit.toNat < gap then none :: pcmOutputs p rest
      else if ones.2 then bitsIf zeros.2 zeros.1 false ++ pcmOutputs p rest
      else pcmOutputs p rest

/-- The number of chips of a run of width `w`, 1 or 2, if it is valid (44_demodulator.md R213 `nch`). -/
def Desc.runLength (p : Desc) (w : Nat) : Option Nat :=
  let exact (n : Nat) : Prop :=
    rnd w p.shortWidth.toNat = n ∧ ((w : Int) - n * p.shortWidth.toNat).natAbs ≤ p.tolerance.toNat
  if exact 1 then some 1 else if exact 2 then some 2 else none

/-- Between two chips of a Manchester train: the open half-bit, if any, and the level the last cell ended on, if it is known. -/
structure Cell where
  half : Option Bool
  last : Option Bool
deriving DecidableEq, Repr

/-- The chips of one run (44_demodulator.md R213, R214 `Feed`): the outputs and the cell after it, none when it aborted. Two
chips make a bit: in Manchester the second, equal halves abort; in Differential Manchester (`diff`) 1 for equal halves, and a
cell that starts at the level the last one ended on aborts. -/
def cellOutputs (diff : Bool) (v : Bool) : Nat → Cell → List (Option Bool) × Option Cell
  | 0, c => ([], some c)
  | n + 1, c =>
    match c.half with
    | none => if diff && c.last == some v then ([none], none) else cellOutputs diff v n { c with half := some v }
    | some h =>
      if !diff && h == v then ([none], none)
      else
        let r := cellOutputs diff v n { half := none, last := some v }
        (some (if diff then h == v else v) :: r.1, r.2)

/-- A run of a train: as many chips as it is long; an invalid run aborts (44_demodulator.md R213). -/
def runOutputs (diff : Bool) (v : Bool) : Option Nat → Cell → List (Option Bool) × Option Cell
  | some n, c => cellOutputs diff v n c
  | none, _ => ([none], none)

/-- What `Close()` leaves: a high half-bit before the silence is a 0 (44_demodulator.md R213). -/
def closing (c : Option Cell) : List (Option Bool) :=
  if c.bind Cell.half = some true then [some false] else []

/-- The outputs of a Manchester or Differential-Manchester train from a cell (44_demodulator.md R213 `Step_MC`, R215): the
pulse's chips, then, unless the gap is a boundary or the pulse aborted, the gap's; after an abort a new cell starts. -/
def chipOutputs (p : Desc) (diff : Bool) : List (Nat × Nat) → Cell → List (Option Bool)
  | [], c => closing (some c)
  | (pulse, gap) :: rest, c =>
    let fresh : Cell := { half := none, last := none }
    let high := runOutputs diff true (p.runLength pulse) c
    high.1 ++
      if p.resetLimit.toNat < gap then closing high.2
      else if p.gapLimit.toNat < gap then closing high.2 ++ none :: chipOutputs p diff rest fresh
      else
        match high.2 with
        | none => chipOutputs p diff rest fresh
        | some c' =>
          let low := runOutputs diff false (p.runLength gap) c'
          low.1 ++ chipOutputs p diff rest (low.2.getD fresh)

/-- The rows of a Manchester train (44_demodulator.md R213, R214): it starts in a new cell. -/
def Desc.rowsOfChips (p : Desc) (diff : Bool) (train : List (Nat × Nat)) : List (List Bool) :=
  rowsFrom [] (chipOutputs p diff train { half := none, last := none })

/-! ## Dispatch -/

/-- After `CAND <- c ; Demodulate(c)` (45_registry_dispatch.md R258, 44_demodulator.md R205). -/
def State.candidate (c : Nat) (s : State) : State :=
  { s with cand := BitVec.ofNat 8 c, bb0 := (demodTrain (s.slot c) s.train).buf, tagV := true,
           tagSlot := BitVec.ofNat 8 c }

/-- After a decoder is selected (45_registry_dispatch.md R259): `CUR <- d ; TRIED[d] <- 1 ; Clear(1) ; FLIP <- 0 ;
DST <- WAIT_DECODE`. -/
def State.awaits (d : Nat) (s : State) : State :=
  { s with cur := BitVec.ofNat 8 d, tried := s.tried ||| BitVec.twoPow 256 d, bb1 := { rows := [], ovf := false },
           flip := false, dst := .waitDecode }

/-- `tr` is `TRIED` with the bit of every registered slot with a property set (45_registry_dispatch.md R258, R263). -/
def State.PassedOver (s : State) (x : Nat → Bool) (tr : BitVec 256) : Prop :=
  ∀ i, i < 256 → tr.getLsbD i = (s.tried.getLsbD i || (decide (i < s.reg.length) && x i))

/-- The decoder slot `d` may be given the buffer of candidate `c` (45_registry_dispatch.md R258, R259). -/
def State.servedBy (s : State) (c d : Nat) : Bool := s.eligible d && compatible (s.slot c) (s.slot d)

/-- `SelectCandidate()` of 45_registry_dispatch.md R258 as a relation, without a bound on the turns of its loop. -/
inductive SelectsCandidate : State → State → Prop
  /-- no eligible slot is left -/
  | finish (s : State) (h : s.firstSlot s.eligible = none) : SelectsCandidate s { s with dst := .done }
  /-- the candidate's buffer came out empty: the decoders it would have served are passed over -/
  | pass (s u : State) (c : Nat) (tr : BitVec 256) (h : s.firstSlot s.eligible = some c)
      (empty : (demodTrain (s.slot c) s.train).buf.rows = []) (marked : s.PassedOver (s.servedBy c) tr)
      (rest : SelectsCandidate { s.candidate c with tried := tr } u) : SelectsCandidate s u
  /-- a decoder is found for the candidate's buffer (R259) -/
  | pick (s : State) (c d : Nat) (h : s.firstSlot s.eligible = some c)
      (filled : (demodTrain (s.slot c) s.train).buf.rows ≠ []) (found : s.firstSlot (s.servedBy c) = some d) :
      SelectsCandidate s ((s.candidate c).awaits d)

/-- `SelectDecoder()` of 45_registry_dispatch.md R259. -/
def SelectsDecoder (s u : State) : Prop :=
  (∃ d, s.firstSlot (s.servedBy s.cand.toNat) = some d ∧ u = s.awaits d) ∨
    (s.firstSlot (s.servedBy s.cand.toNat) = none ∧ SelectsCandidate s u)

/-- Two states in the same position of the same dispatch: registry, pulse train, `DST` and `TRIED` agree, and while a decoder
is awaited so do `CAND`, `CUR` and the buffer under decode, inversions by the decode function undone (R267, R262).
Everything else may differ. -/
def SameDispatch (s t : State) : Prop :=
  s.reg = t.reg ∧ s.rst = t.rst ∧ s.ptLen = t.ptLen ∧ s.train = t.train ∧ s.dst = t.dst ∧ s.tried = t.tried ∧
    (s.dst = .waitDecode → s.cand = t.cand ∧ s.cur = t.cur ∧
      (if s.flip then s.bb0.invert else s.bb0) = (if t.flip then t.bb0.invert else t.bb0))

/-! ## Reset -/

/-- The values of 10_state.md R54. The free contents of `SCR` and `PT` are those of the state's epoch (log 3). -/
structure State.AtReset (t : State) : Prop where
  operands : t.arg0 = 0 ∧ t.arg1 = 0 ∧ t.arg2 = 0 ∧ t.arg3 = 0
  results : t.res0 = 0 ∧ t.res1 = 0
  command : t.status = 0 ∧ t.lastCmd = 0
  interrupts : t.ie = 0 ∧ t.irq = false
  train : t.ptLen = 0
  staging : ∀ x ∈ descWords t.desc, x = 0
  sequencing : t.dst = .idle ∧ t.cand = 0 ∧ t.cur = 0 ∧ t.flip = false ∧ t.dstate = 0
  registry : t.rst = .uninit ∧ t.nreg = 0 ∧ ∀ i, ∀ x ∈ descWords (t.slot i), x = 0
  tried : ∀ i, t.tried.getLsbD i = false
  counters : t.nrec = 0 ∧ t.natt = 0 ∧ t.nmatch = 0 ∧ t.last = 0
  views : t.matchWord = 0 ∧ t.bb0tag = 0
  buffers : t.bb0.rows = [] ∧ t.bb1.rows = [] ∧ t.bb0.ovf = false ∧ t.bb1.ovf = false
  memories : ∀ a, t.byteAt a = Config.powerUpByte t.epoch a

end Sys2Proof.Machine
end

