-- ==== Sys2Proof/Certificates/Slice0/Obligations.lean ====
section
/-!
DEFINITION. The statements. Each docstring names the rules it formalises; a next state is given as `s` with the fields the
command changes, so every field not listed keeps its value, memory and free contents included.
-/

open Sys2Proof Sys2Proof.Machine

/-! ## Encoding and issue -/

/-- 30_encoding.md R101 to R103, R108: the decoder reads a command from a word exactly when the word is that command's. -/
def Obligations.DecodeReadsExactlyEncodedWords : Prop :=
  ∀ (w : Word) (i : Instr), decode w = .ok i ↔ encode i = w

/-- Words written out from the opcode map (R103), the examples of R108, R191 and R282 among them. -/
def Obligations.SpecWordsDecodeToTheirCommands : Prop :=
  decode 0x00000000#32 = .ok .nop ∧ decode 0x00000011#32 = .ok .crc8r ∧ decode 0x0000001A#32 = .ok .lfsr16 ∧
    decode 0x00000028#32 = .ok (.bbSearch .bb0) ∧ decode 0x00000123#32 = .ok (.bbAddbits .bb1) ∧
    decode 0x00000230#32 = .ok (.bbManch .bb0 .bb1) ∧ decode 0x00000131#32 = .ok (.bbDmanch .bb1 .bb0) ∧
    decode 0x00000038#32 = .ok .demod ∧ decode 0x00000041#32 = .ok .regAdd ∧ decode 0x00000049#32 = .ok .dspReturn ∧
    decode 0x00000450#32 = .error .unknownOpcode ∧ decode 0x00000220#32 = .error .reservedField

/-- 30_encoding.md R104: an unknown opcode is refused with `ERR_OPCODE`, a known one in a word that is no command's with
`ERR_FIELD`, and every other word runs the one command it is the word of. -/
def Obligations.IssuedWordsRunOrAreRefused : Prop :=
  ∀ (s : State) (w : Word) (rest : List Request),
    let t : State := { s with requests := rest, resp := .done, lastCmd := w }
    let issued := step { s with requests := .write .four 0x10#15 w :: rest }
    (w.toNat % 256 ∉ definedOpcodes → issued = .next { t with status := 1 }) ∧
      (w.toNat % 256 ∈ definedOpcodes → (∀ i, encode i ≠ w) → issued = .next { t with status := 2 }) ∧
      (∀ i, encode i = w → issued = exec i t)

/-- 30_encoding.md R100, 00_scope.md R6: the step that serves a write of a command's word to `CMD` is the command, in the state
with the request taken, the access answered and `LASTCMD` written. How the write is presented is the model's choice (log 1),
and so is the answer (log 2); the second clause is the same for `withFetchWord`. -/
def Obligations.StepRunsDecodedCommand : Prop :=
  (∀ (s : State) (w : Word) (rest : List Request) (i : Instr),
      s.requests = .write .four 0x10#15 w :: rest → decode w = .ok i →
      step s = exec i { s with requests := rest, resp := .done, lastCmd := w }) ∧
    ∀ (s : State) (w : Word) (i : Instr), decode w = .ok i →
      step (s.withFetchWord 32 w.toNat) = exec i { s with resp := .done, lastCmd := w }

/-! ## Reset -/

/-- 10_state.md R54, 70_reset_and_hazards.md R310: the state after reset, and after a `RESET` in any state; `RESET` emits no
event. That pending accesses stay and the free contents are renewed is the model's choice (log 1, log 3, log 8). -/
def Obligations.ResetTakesResetValues : Prop :=
  State.reset.AtReset ∧
    ∀ (s : State) (rest : List Request),
      ∃ t, step { s with requests := .reset :: rest } = .next t ∧ t.AtReset ∧ t.evt = s.evt ∧ t.requests = rest

/-- 70_reset_and_hazards.md R312: what the first reads after reset return. -/
def Obligations.FirstReadsAfterReset : Prop :=
  let reads (a : BusAddr) (v : Word) : Prop :=
    step { State.reset with requests := [.read .four a] } = .next { State.reset with resp := .data v }
  reads 0x00#15 0x04330011#32 ∧ reads 0x04#15 0x02191000#32 ∧ reads 0x08#15 0x04000100#32 ∧ reads 0x0C#15 0x00000400#32 ∧
    ∀ a : BusAddr, a.toNat % 4 = 0 → mapped a.toNat → 0x10 ≤ a.toNat → ¬ (0x400 ≤ a.toNat ∧ a.toNat < 0x4000) → reads a 0

/-! ## The bus -/

/-- 20_memory.md R76: an access for which one of the five tests holds ends with an error response and changes nothing; any
other is answered, a read with data and no change at all (R75). -/
def Obligations.BusErrorChangesNothing : Prop :=
  ∀ (s : State) (rest : List Request) (size : Size) (a : BusAddr),
    (s.accessErrs false size a.toNat →
        step { s with requests := .read size a :: rest } = .next { s with requests := rest, resp := .busError }) ∧
      (¬ s.accessErrs false size a.toNat →
        ∃ v, step { s with requests := .read size a :: rest } = .next { s with requests := rest, resp := .data v }) ∧
      ∀ v : Word,
        (s.accessErrs true size a.toNat →
            step { s with requests := .write size a v :: rest } = .next { s with requests := rest, resp := .busError }) ∧
          (¬ s.accessErrs true size a.toNat → ∀ t,
            step { s with requests := .write size a v :: rest } = .next t → t.resp = .done)

/-- 20_memory.md R72, R75, R78 with 10_state.md R42, R43: an accepted write to `SCR` or `PT` stores its bytes in little-endian
order and changes nothing else, and a read of the same bytes returns them. A narrow write takes the low bits of its data and a
narrow read is zero-extended (log 10). -/
def Obligations.MemoryWriteThenReadReturnsData : Prop :=
  ∀ (s : State) (rest : List Request) (size : Size) (a : BusAddr) (v : Word),
    ((0x400 ≤ a.toNat ∧ a.toNat < 0x800) ∨
        (0x2000 ≤ a.toNat ∧ a.toNat < 0x4000 ∧ size = .four ∧ s.dst ≠ .waitDecode)) →
    a.toNat % size.bytes = 0 →
    ∃ t, step { s with requests := .write size a v :: .read size a :: rest } = .next t ∧
      t = { s with requests := .read size a :: rest, resp := .done, mem := t.mem } ∧
      (∀ b, t.byteAt b =
        if a.toNat ≤ b ∧ b < a.toNat + size.bytes then (v >>> (8 * (b - a.toNat))).setWidth 8 else s.byteAt b) ∧
      step t = .next { t with requests := rest, resp := .data (BitVec.ofNat 32 (v.toNat % 2 ^ (8 * size.bytes))) }

/-- 10_state.md R26 to R39, R45 to R47: what a read of each register and of each registry word returns; reserved bits read 0. The
numbers in `DSTATE` are those of R32, the words of a descriptor in the order of R46. -/
def Obligations.RegisterReadsReturnState : Prop :=
  ∀ (s : State) (rest : List Request),
    let reads (a : Nat) (v : Word) : Prop :=
      step { s with requests := .read .four (BitVec.ofNat 15 a) :: rest } = .next { s with requests := rest, resp := .data v }
    (reads 0x00 0x04330011#32 ∧ reads 0x04 0x02191000#32 ∧ reads 0x08 0x04000100#32 ∧ reads 0x0C 0x00000400#32) ∧
      (reads 0x10 s.lastCmd ∧ reads 0x14 s.status ∧ reads 0x18 s.res0 ∧ reads 0x1C s.res1) ∧
      (reads 0x20 s.arg0 ∧ reads 0x24 s.arg1 ∧ reads 0x28 s.arg2 ∧ reads 0x2C s.arg3) ∧
      (reads 0x30 s.ptLen ∧ reads 0x34 (BitVec.ofNat 32 s.ie.toNat) ∧ reads 0x3C (BitVec.ofNat 32 s.reg.length)) ∧
      reads 0x38 (BitVec.ofNat 32
        (dstNumber s.dst + 4 * rstNumber s.rst + 16 * s.flip.toNat + 256 * s.cur.toNat + 65536 * s.cand.toNat)) ∧
      (reads 0x40 s.nrec ∧ reads 0x44 s.natt ∧ reads 0x48 s.nmatch ∧ reads 0x4C s.last) ∧
      reads 0x50 (BitVec.ofNat 32 (s.matchSlot.toNat + 2 ^ 31 * s.matchV.toNat)) ∧
      reads 0x54 (BitVec.ofNat 32 (s.tagSlot.toNat + 2 ^ 31 * s.tagV.toNat)) ∧
      (∀ w, w < 16 → reads (0x80 + 4 * w) ((descWords s.desc).getD w 0)) ∧
      ∀ i w, i < 256 → w < 16 → reads (0x4000 + 64 * i + 4 * w) (((s.reg.map descWords).getD i []).getD w 0)

/-- 10_state.md R21, R30, R39, R44, R46, 20_memory.md R75: a write to a writable register other than `CMD` stores the data and does
nothing else; `IE` keeps bits [1:0]; `PT_LEN` while no decoder is awaited. -/
def Obligations.RegisterWritesStoreData : Prop :=
  ∀ (s : State) (rest : List Request) (v : Word),
    let t : State := { s with requests := rest, resp := .done }
    let write (a : Nat) := step { s with requests := .write .four (BitVec.ofNat 15 a) v :: rest }
    write 0x20 = .next { t with arg0 := v } ∧ write 0x24 = .next { t with arg1 := v } ∧
      write 0x28 = .next { t with arg2 := v } ∧ write 0x2C = .next { t with arg3 := v } ∧
      write 0x34 = .next { t with ie := v.setWidth 2 } ∧
      (s.dst ≠ .waitDecode → write 0x30 = .next { t with ptLen := v }) ∧
      ∀ w, w < 16 → ∃ d : Desc, write (0x80 + 4 * w) = .next { t with desc := d } ∧
        descWords d = (descWords s.desc).set w v

/-- 60_exceptions.md R290: the level of `IRQ`, a function of the state alone, and low after reset with `IE` 0. -/
def Obligations.IrqIsFunctionOfStateAndEnable : Prop :=
  (∀ s : State, s.irq = true ↔
      (s.ie.getLsbD 0 = true ∧ s.dst = .waitDecode) ∨ (s.ie.getLsbD 1 = true ∧ s.dst = .done)) ∧
    State.reset.ie = 0 ∧ State.reset.irq = false

/-! ## Every command -/

/-- 60_exceptions.md R282, R284: `STATUS` takes the code of the first check that fails, in numeric order, else 0; with it the
states R163, R241, R261 and R311 allow each command in. -/
def Obligations.CheckOrderDecidesStatus : Prop :=
  ∀ (i : Instr) (s t : State), exec i s = .next t → t.status = checkCode i s

/-- 60_exceptions.md R283: a refused command changes `LASTCMD` and `STATUS`, and nothing else of the block; the write to `CMD`
that carried it completes without a bus error; a command that passes its checks leaves `STATUS` 0, whatever it held. -/
def Obligations.RefusedCommandChangesNothing : Prop :=
  (∀ (s t : State) (w : Word) (rest : List Request),
      step { s with requests := .write .four 0x10#15 w :: rest } = .next t → t.status ≠ 0 →
      t = { s with requests := rest, resp := .done, lastCmd := w, status := t.status }) ∧
    ∀ (i : Instr) (s t : State), exec i s = .next t → checkCode i s = 0 → t.status = 0

/-- What each piece of state can be changed by, over all commands (10_state.md R21, R22, R30, R38, R39, R42 to R45, 30_encoding.md
R103). No command changes a register HOST writes; a byte of memory changes only in `SCR` and only by `REFLB` and
`BB_EXTRACT`. -/
def Obligations.CommandsChangeOnlyTheirState : Prop :=
  ∀ (i : Instr) (s t : State), exec i s = .next t →
    (t.arg0 = s.arg0 ∧ t.arg1 = s.arg1 ∧ t.arg2 = s.arg2 ∧ t.arg3 = s.arg3 ∧ t.desc = s.desc ∧ t.ie = s.ie ∧
        t.ptLen = s.ptLen ∧ t.lastCmd = s.lastCmd ∧ t.requests = s.requests ∧ t.resp = s.resp ∧ t.epoch = s.epoch) ∧
      (∀ a, t.byteAt a ≠ s.byteAt a → (0x400 ≤ a ∧ a < 0x800) ∧ i ∈ [.reflb, .bbExtract .bb0, .bbExtract .bb1]) ∧
      (t.res1 ≠ s.res1 → i ∈ [.lfsr8, .lfsr8r, .lfsr16, .lfsr16r, .bbInfo .bb0, .bbInfo .bb1, .bbSearch .bb0,
        .bbSearch .bb1, .bbManch .bb0 .bb1, .bbManch .bb1 .bb0, .bbDmanch .bb0 .bb1, .bbDmanch .bb1 .bb0]) ∧
      (t.res0 ≠ s.res0 → i ∉ [.nop, .reflb, .bbClear .bb0, .bbClear .bb1, .bbAddrow .bb0, .bbAddrow .bb1, .bbAddbit .bb0,
        .bbAddbit .bb1, .bbAddbits .bb0, .bbAddbits .bb1, .bbInvert .bb0, .bbInvert .bb1, .bbExtract .bb0, .bbExtract .bb1,
        .regInit, .regTeardown, .dspStart, .dspReturn, .dspAck]) ∧
      (t.bb0 ≠ s.bb0 → i ∈ [.bbClear .bb0, .bbAddrow .bb0, .bbAddbit .bb0, .bbAddbits .bb0, .bbInvert .bb0,
        .bbManch .bb1 .bb0, .bbDmanch .bb1 .bb0, .demod, .dspStart, .dspReturn]) ∧
      (t.bb1 ≠ s.bb1 → i ∈ [.bbClear .bb1, .bbAddrow .bb1, .bbAddbit .bb1, .bbAddbits .bb1, .bbInvert .bb1,
        .bbManch .bb0 .bb1, .bbDmanch .bb0 .bb1, .dspStart, .dspReturn]) ∧
      ((t.tagV ≠ s.tagV ∨ t.tagSlot ≠ s.tagSlot) → i ∈ [.bbClear .bb0, .demod, .dspStart, .dspReturn]) ∧
      (t.reg ≠ s.reg → i ∈ [.regInit, .regAdd, .regTeardown]) ∧
      (t.rst ≠ s.rst → i ∈ [.regInit, .regLock, .regTeardown]) ∧
      (t.flip ≠ s.flip → i ∈ [.bbInvert .bb0, .dspStart, .dspReturn]) ∧
      (t.dst ≠ s.dst → i ∈ [.dspStart, .dspReturn, .dspAck]) ∧
      ((t.cand ≠ s.cand ∨ t.cur ≠ s.cur ∨ t.tried ≠ s.tried ∨ t.nrec ≠ s.nrec ∨ t.natt ≠ s.natt ∨ t.nmatch ≠ s.nmatch ∨
        t.last ≠ s.last ∨ t.matchV ≠ s.matchV ∨ t.matchSlot ≠ s.matchSlot) → i ∈ [.dspStart, .dspReturn]) ∧
      (t.evt ≠ s.evt → i = .dspReturn)

/-- 41_bitbuffer_store.md R163, 45_registry_dispatch.md R241, R261: while a decoder is awaited with the registry locked, every
command but `DSP_RETURN` leaves the buffer under decode, the registry and the dispatcher as they are, except that `BB_INVERT`
on `BB0` inverts it and toggles `FLIP`. -/
def Obligations.AwaitedDispatchIsProtected : Prop :=
  ∀ (i : Instr) (s t : State), s.dst = .waitDecode → s.rst = .locked → exec i s = .next t → i ≠ .dspReturn →
    (t.dst = .waitDecode ∧ t.rst = .locked ∧ t.reg = s.reg ∧ t.ptLen = s.ptLen ∧ t.cand = s.cand ∧ t.cur = s.cur ∧
        t.tried = s.tried ∧ t.tagV = s.tagV ∧ t.tagSlot = s.tagSlot ∧ t.natt = s.natt) ∧
      (i = .bbInvert .bb0 → t.bb0 = s.bb0.invert ∧ t.flip = !s.flip) ∧
      (i ≠ .bbInvert .bb0 → t.bb0 = s.bb0 ∧ t.flip = s.flip)

/-- 60_exceptions.md R296, 45_registry_dispatch.md R264: an executed `DSP_RETURN` emits one event with `CAND`, `CUR`, the
normalised outcome and its level; no other step emits one. -/
def Obligations.OneEventPerExecutedReturn : Prop :=
  ∀ s t : State, step s = .next t →
    let returns : Prop := s.requests.head? = some (.write .four 0x10#15 0x49#32) ∧ s.dst = .waitDecode
    (¬ returns → t.evt = s.evt) ∧
      (returns → ∃ e : Event, t.evt = s.evt ++ [e] ∧ e.cand = s.cand ∧ e.cur = s.cur ∧
        e.outcome = (if -4 ≤ s.arg0.toInt then s.arg0 else 0) ∧
        e.level.toNat = if 1 ≤ e.outcome.toInt then 0 else if e.outcome.toInt = 0 then 1
          else if e.outcome.toInt = -3 then 2 else 3)

/-- 45_registry_dispatch.md R266: the transitions of `DST` over every step. `DONE` is entered when nothing is left to invoke. -/
def Obligations.DispatcherStateTransitions : Prop :=
  ∀ s t : State, step s = .next t →
    let issues (w : Word) : Prop := s.requests.head? = some (.write .four 0x10#15 w) ∧ t.status = 0
    (s.requests.head? = some .reset → t.dst = .idle) ∧
      (issues 0x48#32 → s.dst ≠ .waitDecode ∧ (t.dst = .waitDecode ∨ t.dst = .done ∧ ∀ i, t.eligible i = false)) ∧
      (issues 0x49#32 → s.dst = .waitDecode ∧ (t.dst = .waitDecode ∨ t.dst = .done ∧ ∀ i, t.eligible i = false)) ∧
      (issues 0x4A#32 → s.dst = .done ∧ t.dst = .idle) ∧
      (t.dst ≠ s.dst → s.requests.head? = some .reset ∨ issues 0x48#32 ∨ issues 0x49#32 ∨ issues 0x4A#32)

/-! ## Null and checksum commands -/

/-- 30_encoding.md R110: `NOP`. -/
def Obligations.NopClearsStatusOnly : Prop :=
  encode .nop = 0#32 ∧ (∀ s : State, exec .nop s = .next { s with status := 0 }) ∧
    ∀ w : Word, w.toNat % 256 = 0 → w ≠ 0 → decode w = .error .reservedField

/-- 40_checksum.md R121 to R124: over every slice in `SCR` the four CRC commands return the remainder of the bit-serial
polynomial division of the message; the reflected ones that of the message with each byte reversed, reversed. -/
def Obligations.CrcCommandsDivideTheMessage : Prop :=
  ∀ s : State, s.arg0.toNat + s.arg1.toNat ≤ 1024 →
    let m := s.bytesAt (0x400 + s.arg0.toNat) s.arg1.toNat
    let r := m.map BitVec.reverse
    exec .crc8 s = .next { s with
        res0 := (serialCrc (s.arg2.setWidth 8) (s.arg3.setWidth 8) (bytesBits m)).setWidth 32, status := 0 } ∧
      exec .crc8r s = .next { s with
        res0 := (serialCrc (s.arg2.setWidth 8) (s.arg3.setWidth 8) (bytesBits r)).reverse.setWidth 32, status := 0 } ∧
      exec .crc16 s = .next { s with
        res0 := (serialCrc (s.arg2.setWidth 16) (s.arg3.setWidth 16) (bytesBits m)).setWidth 32, status := 0 } ∧
      exec .crc16r s = .next { s with
        res0 := (serialCrc (s.arg2.setWidth 16) (s.arg3.setWidth 16) (bytesBits r)).reverse.setWidth 32, status := 0 }

/-- 40_checksum.md R126 to R128: `XORB` gives in each bit the parity of that bit over the slice, `ADDB` the sum of the bytes
modulo 2^32, `PARB` the parity of the number of 1 bits; each is refused with `ERR_RANGE` for a slice outside `SCR`. -/
def Obligations.FoldCommandsReduceTheSlice : Prop :=
  (encode .xorb = 0x14#32 ∧ encode .addb = 0x15#32 ∧ encode .parb = 0x16#32) ∧
    ∀ s : State,
      let m := s.bytesAt (0x400 + s.arg0.toNat) s.arg1.toNat
      (s.arg0.toNat + s.arg1.toNat ≤ 1024 →
        (∃ x : Byte, exec .xorb s = .next { s with res0 := x.setWidth 32, status := 0 } ∧
            ∀ k, k < 8 → x.getLsbD k = ((m.filter fun b => b.getLsbD k).length % 2 == 1)) ∧
          exec .addb s = .next { s with res0 := BitVec.ofNat 32 (m.map BitVec.toNat).sum, status := 0 } ∧
          exec .parb s = .next { s with res0 := BitVec.ofNat 32 ((bytesBits m).count true % 2), status := 0 }) ∧
        (1024 < s.arg0.toNat + s.arg1.toNat →
          exec .xorb s = .next { s with status := 6 } ∧ exec .addb s = .next { s with status := 6 } ∧
            exec .parb s = .next { s with status := 6 })

/-- 40_checksum.md R129 to R132: the digest is the exclusive-or of the keys at the 1 bits of the message, most significant bit
of each byte first, the key stepped once per bit; the final key is the key stepped once for every bit. Steps as in the rules:
toward bit 0, and toward the top bit in the reflected commands. -/
def Obligations.LfsrDigestIsSumOfKeys : Prop :=
  ∀ s : State, s.arg0.toNat + s.arg1.toNat ≤ 1024 →
    let bits := bytesBits (s.bytesAt (0x400 + s.arg0.toNat) s.arg1.toNat)
    let digest {w : Nat} (step : BitVec w → BitVec w) (key : BitVec w) : State :=
      { s with res0 := (keySum step key bits).setWidth 32, res1 := (keyAfter step key bits.length).setWidth 32, status := 0 }
    bits.length = 8 * s.arg1.toNat ∧
      (∀ k, k < 8 * s.arg1.toNat → bits.getD k false = (s.byteAt (0x400 + s.arg0.toNat + k / 8)).getLsbD (7 - k % 8)) ∧
      exec .lfsr8 s = .next (digest (keyStepDown (s.arg2.setWidth 8)) (s.arg3.setWidth 8)) ∧
      exec .lfsr8r s = .next (digest (keyStepUp (s.arg2.setWidth 8)) (s.arg3.setWidth 8)) ∧
      exec .lfsr16 s = .next (digest (keyStepDown (s.arg2.setWidth 16)) (s.arg3.setWidth 16)) ∧
      exec .lfsr16r s = .next (digest (keyStepUp (s.arg2.setWidth 16)) (s.arg3.setWidth 16))

/-- The mirror laws of 40_checksum.md R130 and R132: a reflected digest is the reverse of the plain one with generator and key
reversed, for the digest and for the final key. -/
def Obligations.ReflectedDigestIsMirrorImage : Prop :=
  ∀ s : State, s.arg0.toNat + s.arg1.toNat ≤ 1024 →
    (∃ t, exec .lfsr8 { s with arg2 := (s.arg2.setWidth 8).reverse.setWidth 32,
                               arg3 := (s.arg3.setWidth 8).reverse.setWidth 32 } = .next t ∧
        exec .lfsr8r s = .next { s with res0 := (t.res0.setWidth 8).reverse.setWidth 32,
                                        res1 := (t.res1.setWidth 8).reverse.setWidth 32, status := 0 }) ∧
      ∃ t, exec .lfsr16 { s with arg2 := (s.arg2.setWidth 16).reverse.setWidth 32,
                                 arg3 := (s.arg3.setWidth 16).reverse.setWidth 32 } = .next t ∧
        exec .lfsr16r s = .next { s with res0 := (t.res0.setWidth 16).reverse.setWidth 32,
                                         res1 := (t.res1.setWidth 16).reverse.setWidth 32, status := 0 }

/-- 40_checksum.md R125: the empty slice. -/
def Obligations.EmptySliceGivesIdentity : Prop :=
  ∀ s : State, s.arg1 = 0 → s.arg0.toNat ≤ 1024 →
    let key8 : Word := (s.arg3.setWidth 8).setWidth 32
    let key16 : Word := (s.arg3.setWidth 16).setWidth 32
    exec .crc8 s = .next { s with res0 := key8, status := 0 } ∧
      exec .crc16 s = .next { s with res0 := key16, status := 0 } ∧
      exec .crc8r s = .next { s with res0 := (s.arg3.setWidth 8).reverse.setWidth 32, status := 0 } ∧
      exec .crc16r s = .next { s with res0 := (s.arg3.setWidth 16).reverse.setWidth 32, status := 0 } ∧
      exec .xorb s = .next { s with res0 := 0, status := 0 } ∧ exec .addb s = .next { s with res0 := 0, status := 0 } ∧
      exec .parb s = .next { s with res0 := 0, status := 0 } ∧
      exec .lfsr8 s = .next { s with res0 := 0, res1 := key8, status := 0 } ∧
      exec .lfsr8r s = .next { s with res0 := 0, res1 := key8, status := 0 } ∧
      exec .lfsr16 s = .next { s with res0 := 0, res1 := key16, status := 0 } ∧
      exec .lfsr16r s = .next { s with res0 := 0, res1 := key16, status := 0 } ∧
      exec .reflb s = .next { s with status := 0 }

/-- 40_checksum.md R133: `REFL8`, bit by bit. -/
def Obligations.Refl8ReversesTheByte : Prop :=
  encode .refl8 = 0x1C#32 ∧
    ∀ s : State, ∃ b : Byte, (∀ k, k < 8 → b.getLsbD k = s.arg0.getLsbD (7 - k)) ∧
      exec .refl8 s = .next { s with res0 := b.setWidth 32, status := 0 }

/-- 40_checksum.md R134: `REFLB` reverses each byte of the slice in place, keeps every other byte, writes no `RES`, and done
twice restores the slice. -/
def Obligations.ReflbReversesSliceInPlace : Prop :=
  encode .reflb = 0x1D#32 ∧
    ∀ s : State,
      (s.arg0.toNat + s.arg1.toNat ≤ 1024 →
        ∃ t u, exec .reflb s = .next t ∧ exec .reflb t = .next u ∧ t = { s with mem := t.mem, status := 0 } ∧
          (∀ a, t.byteAt a =
            if 0x400 + s.arg0.toNat ≤ a ∧ a < 0x400 + s.arg0.toNat + s.arg1.toNat then (s.byteAt a).reverse else s.byteAt a) ∧
          ∀ a, u.byteAt a = s.byteAt a) ∧
        (1024 < s.arg0.toNat + s.arg1.toNat → exec .reflb s = .next { s with status := 6 })

/-! ## Row store -/

/-- 41_bitbuffer_store.md R155, R156 with R152, R153: `BB_CLEAR` empties the buffer and, for `BB0`, clears `TAG_V`; `BB_ADDROW`
opens a row, sets `OVF` at `MAX_ROWS` rows, and does nothing once `OVF` is set; both are refused for `BB0` under decode. -/
def Obligations.BufferClearAndRowOpening : Prop :=
  (encode (.bbClear .bb0) = 0x20#32 ∧ encode (.bbClear .bb1) = 0x120#32 ∧ encode (.bbAddrow .bb0) = 0x21#32 ∧
      encode (.bbAddrow .bb1) = 0x121#32) ∧
    (∀ s : State, s.dst = .waitDecode → exec (.bbClear .bb0) s = .next { s with status := 3 } ∧
      exec (.bbAddrow .bb0) s = .next { s with status := 3 }) ∧
    (∀ s : State, s.dst ≠ .waitDecode →
      exec (.bbClear .bb0) s = .next { s with bb0 := { rows := [], ovf := false }, tagV := false, status := 0 }) ∧
    (∀ s : State, exec (.bbClear .bb1) s = .next { s with bb1 := { rows := [], ovf := false }, status := 0 }) ∧
    ∀ (s : State) (b : Buf), (b = .bb0 → s.dst ≠ .waitDecode) →
      ((s.buf b).ovf = true → exec (.bbAddrow b) s = .next { s with status := 0 }) ∧
        ((s.buf b).ovf = false → (s.buf b).rows.length = 25 →
          exec (.bbAddrow b) s = .next { s.setBuf b { rows := (s.buf b).rows, ovf := true } with status := 0 }) ∧
        ((s.buf b).ovf = false → (s.buf b).rows.length ≠ 25 →
          exec (.bbAddrow b) s = .next { s.setBuf b { rows := (s.buf b).rows ++ [[]], ovf := false } with status := 0 })

/-- 41_bitbuffer_store.md R157 with R154: `BB_ADDBIT` appends bit 0 of `ARG0` to the current row, opens row 0 of an empty
buffer, and drops the bit at a full row or with `OVF` set; it is refused for `BB0` under decode. -/
def Obligations.AddbitAppendsToCurrentRow : Prop :=
  (encode (.bbAddbit .bb0) = 0x22#32 ∧ encode (.bbAddbit .bb1) = 0x122#32) ∧
    (∀ s : State, s.dst = .waitDecode → exec (.bbAddbit .bb0) s = .next { s with status := 3 }) ∧
    ∀ (s : State) (b : Buf), (b = .bb0 → s.dst ≠ .waitDecode) →
      ((s.buf b).ovf = true → exec (.bbAddbit b) s = .next { s with status := 0 }) ∧
        ((s.buf b).ovf = false → (s.buf b).rows = [] →
          exec (.bbAddbit b) s = .next { s.setBuf b { rows := [[s.arg0.getLsbD 0]], ovf := false } with status := 0 }) ∧
        ∀ (init : List (List Bool)) (row : List Bool), (s.buf b).ovf = false → (s.buf b).rows = init ++ [row] →
          (row.length = 4096 → exec (.bbAddbit b) s = .next { s with status := 0 }) ∧
            (row.length ≠ 4096 → exec (.bbAddbit b) s = .next
              { s.setBuf b { rows := init ++ [row ++ [s.arg0.getLsbD 0]], ovf := false } with status := 0 })

/-- 41_bitbuffer_store.md R158: `BB_ADDBITS` appends the bits of the slice, most significant bit of each byte first, to the
current row; the bits beyond `ROW_CAP_BITS` are dropped; no bits open no row; state check before range check. The last clause
needs the current row within capacity, which R41 keeps. -/
def Obligations.AddbitsAppendsSliceBits : Prop :=
  (encode (.bbAddbits .bb0) = 0x23#32 ∧ encode (.bbAddbits .bb1) = 0x123#32) ∧
    (∀ s : State, s.dst = .waitDecode → exec (.bbAddbits .bb0) s = .next { s with status := 3 }) ∧
    ∀ (s : State) (b : Buf), (b = .bb0 → s.dst ≠ .waitDecode) →
      let bits := (List.range s.arg1.toNat).map fun j => (s.byteAt (0x400 + (s.arg0.toNat + j / 8))).getMsbD (j % 8)
      (1024 < s.arg0.toNat + (s.arg1.toNat + 7) / 8 → exec (.bbAddbits b) s = .next { s with status := 6 }) ∧
        (s.arg0.toNat + (s.arg1.toNat + 7) / 8 ≤ 1024 →
          ((s.buf b).ovf = true ∨ s.arg1 = 0 → exec (.bbAddbits b) s = .next { s with status := 0 }) ∧
            ((s.buf b).ovf = false → s.arg1 ≠ 0 → (s.buf b).rows = [] →
              exec (.bbAddbits b) s = .next { s.setBuf b { rows := [bits.take 4096], ovf := false } with status := 0 }) ∧
            ∀ (init : List (List Bool)) (row : List Bool),
              (s.buf b).ovf = false → s.arg1 ≠ 0 → (s.buf b).rows = init ++ [row] → row.length ≤ 4096 →
              exec (.bbAddbits b) s = .next
                { s.setBuf b { rows := init ++ [row ++ bits.take (4096 - row.length)], ovf := false } with status := 0 })

/-- 41_bitbuffer_store.md R159 to R161: `BB_INFO`, `BB_ROWLEN` and `BB_GETBIT` in every state; a position at or beyond the row's
length reads 0, a row that does not exist is refused; in a buffer within capacity a length is at most `ROW_CAP_BITS`. -/
def Obligations.RowQueriesAnswer : Prop :=
  (encode (.bbInfo .bb0) = 0x24#32 ∧ encode (.bbInfo .bb1) = 0x124#32 ∧ encode (.bbRowlen .bb0) = 0x25#32 ∧
      encode (.bbRowlen .bb1) = 0x125#32 ∧ encode (.bbGetbit .bb0) = 0x26#32 ∧ encode (.bbGetbit .bb1) = 0x126#32) ∧
    ∀ (s : State) (b : Buf),
      let rows := (s.buf b).rows
      exec (.bbInfo b) s = .next { s with
          res0 := BitVec.ofNat 32 rows.length, res1 := if (s.buf b).ovf then 1 else 0, status := 0 } ∧
        (rows.length ≤ s.arg0.toNat →
          exec (.bbRowlen b) s = .next { s with status := 5 } ∧ exec (.bbGetbit b) s = .next { s with status := 5 }) ∧
        ∀ row : List Bool, rows[s.arg0.toNat]? = some row →
          (exec (.bbRowlen b) s = .next { s with res0 := BitVec.ofNat 32 row.length, status := 0 } ∧
              ((s.buf b).fits → row.length ≤ 4096)) ∧
            (row.length ≤ s.arg1.toNat → exec (.bbGetbit b) s = .next { s with res0 := 0, status := 0 }) ∧
            ∀ v : Bool, row[s.arg1.toNat]? = some v →
              exec (.bbGetbit b) s = .next { s with res0 := if v then 1 else 0, status := 0 }

/-- 41_bitbuffer_store.md R162: `BB_INVERT` flips every bit below a row's length, keeps lengths, row count and `OVF`, toggles
`FLIP` for `BB0` under decode, is never refused, and done twice restores everything. -/
def Obligations.InvertFlipsEveryBit : Prop :=
  (encode (.bbInvert .bb0) = 0x27#32 ∧ encode (.bbInvert .bb1) = 0x127#32) ∧
    ∀ (s : State) (b : Buf), ∃ t, exec (.bbInvert b) s = .next t ∧
      t = { s.setBuf b (t.buf b) with flip := t.flip, status := 0 } ∧
      (t.buf b).ovf = (s.buf b).ovf ∧ (t.buf b).rows.length = (s.buf b).rows.length ∧
      (∀ r, (t.buf b).len r = (s.buf b).len r) ∧
      (∀ r k, k < (s.buf b).len r → (t.buf b).bit r k = !(s.buf b).bit r k) ∧
      (∀ r k, (s.buf b).len r ≤ k → (t.buf b).bit r k = false) ∧
      t.flip = (if b = .bb0 ∧ s.dst = .waitDecode then !s.flip else s.flip) ∧
      exec (.bbInvert b) t = .next { s with status := 0 }

/-! ## Search, extraction, comparison, voting -/

/-- 42_bitbuffer_search.md R171: `BB_SEARCH` returns the least offset at or after `start` at which the whole pattern lies in the
row and matches, else the row's length; the row check comes before the range check. -/
def Obligations.SearchFindsLeastOffset : Prop :=
  (encode (.bbSearch .bb0) = 0x28#32 ∧ encode (.bbSearch .bb1) = 0x128#32) ∧
    ∀ (s : State) (b : Buf),
      let n := s.arg3.toNat
      let found := (s.buf b).MatchAt s.arg0.toNat s.arg1.toNat n fun j =>
        (s.byteAt (0x400 + (s.arg2.toNat + j / 8))).getMsbD (j % 8)
      ((s.buf b).rows.length ≤ s.arg0.toNat → exec (.bbSearch b) s = .next { s with status := 5 }) ∧
        (s.arg0.toNat < (s.buf b).rows.length → 1024 < s.arg2.toNat + (n + 7) / 8 →
          exec (.bbSearch b) s = .next { s with status := 6 }) ∧
        (s.arg0.toNat < (s.buf b).rows.length → s.arg2.toNat + (n + 7) / 8 ≤ 1024 →
          ∃ res, exec (.bbSearch b) s = .next { s with
              res0 := BitVec.ofNat 32 res, res1 := BitVec.ofNat 32 ((s.buf b).len s.arg0.toNat), status := 0 } ∧
            ((n ≠ 0 ∧ found res ∧ ∀ o, found o → res ≤ o) ∨
              ((n = 0 ∨ ∀ o, ¬ found o) ∧ res = (s.buf b).len s.arg0.toNat)))

/-- 42_bitbuffer_search.md R172: `BB_EXTRACT` stores exactly the `ceil8(n)` bytes from `SCR[da]`, the row's bits most significant
first with zeros from bit `n` on and beyond the row; every other byte and every register stays. -/
def Obligations.ExtractStoresRowBits : Prop :=
  (encode (.bbExtract .bb0) = 0x29#32 ∧ encode (.bbExtract .bb1) = 0x129#32) ∧
    ∀ (s : State) (b : Buf),
      let n := s.arg3.toNat
      let base := 0x400 + s.arg2.toNat
      ((s.buf b).rows.length ≤ s.arg0.toNat → exec (.bbExtract b) s = .next { s with status := 5 }) ∧
        (s.arg0.toNat < (s.buf b).rows.length → 1024 < s.arg2.toNat + (n + 7) / 8 →
          exec (.bbExtract b) s = .next { s with status := 6 }) ∧
        (s.arg0.toNat < (s.buf b).rows.length → s.arg2.toNat + (n + 7) / 8 ≤ 1024 →
          ∃ t, exec (.bbExtract b) s = .next t ∧ t = { s with mem := t.mem, status := 0 } ∧
            (∀ a, ¬ (base ≤ a ∧ a < base + (n + 7) / 8) → t.byteAt a = s.byteAt a) ∧
            ∀ j k, j < (n + 7) / 8 → k < 8 →
              (t.byteAt (base + j)).getMsbD k =
                (decide (8 * j + k < n) && (s.buf b).bit s.arg0.toNat (s.arg1.toNat + (8 * j + k))))

/-- 42_bitbuffer_search.md R173: `BB_CMPROWS` returns 1 exactly when both rows have `n` bits and agree on them; a row that does
not exist is refused. -/
def Obligations.CompareRowsIsPrefixEquality : Prop :=
  (encode (.bbCmprows .bb0) = 0x2A#32 ∧ encode (.bbCmprows .bb1) = 0x12A#32) ∧
    ∀ (s : State) (b : Buf),
      let bb := s.buf b
      let equal : Prop := s.arg2.toNat ≤ bb.len s.arg0.toNat ∧ s.arg2.toNat ≤ bb.len s.arg1.toNat ∧
        ∀ k, k < s.arg2.toNat → bb.bit s.arg0.toNat k = bb.bit s.arg1.toNat k
      (bb.rows.length ≤ s.arg0.toNat ∨ bb.rows.length ≤ s.arg1.toNat →
          exec (.bbCmprows b) s = .next { s with status := 5 }) ∧
        (s.arg0.toNat < bb.rows.length → s.arg1.toNat < bb.rows.length →
          (equal → exec (.bbCmprows b) s = .next { s with res0 := 1, status := 0 }) ∧
            (¬ equal → exec (.bbCmprows b) s = .next { s with res0 := 0, status := 0 }))

/-- 42_bitbuffer_search.md R174 to R176: the two voting commands return the first non-empty row with at least `m` copies under
their relation, the row itself counted, else `0xFFFFFFFF`; they are never refused. -/
def Obligations.VotingReturnsFirstRepeatedRow : Prop :=
  (encode (.bbFindrep .bb0) = 0x2B#32 ∧ encode (.bbFindrep .bb1) = 0x12B#32 ∧ encode (.bbFindpfx .bb0) = 0x2C#32 ∧
      encode (.bbFindpfx .bb1) = 0x12C#32) ∧
    ∀ (s : State) (b : Buf),
      (∃ res, exec (.bbFindrep b) s = .next { s with res0 := res, status := 0 } ∧
          (s.buf b).VoteResult s.arg0.toNat ((s.buf b).FullCopy s.arg1.toNat) res) ∧
        ∃ res, exec (.bbFindpfx b) s = .next { s with res0 := res, status := 0 } ∧
          (s.buf b).VoteResult s.arg0.toNat ((s.buf b).PrefixCopy s.arg1.toNat) res

/-- 42_bitbuffer_search.md R177 (1) and (2): bits extracted from a row of one buffer and appended to the other, cleared, are the
row's bits, with zeros beyond its end. At least one bit, because no bits open no row (R158); at most `ROW_CAP_BITS`. -/
def Obligations.ExtractionRoundTrip : Prop :=
  ∀ (s : State) (src dst : Buf), src ≠ dst → (dst = .bb0 → s.dst ≠ .waitDecode) →
    s.arg0.toNat < (s.buf src).rows.length → s.arg2 = 0 → s.arg3 ≠ 0 → s.arg3.toNat ≤ 4096 →
    ∃ t u v, exec (.bbExtract src) s = .next t ∧ exec (.bbClear dst) t = .next u ∧
      exec (.bbAddbits dst) { u with arg0 := 0, arg1 := s.arg3 } = .next v ∧
      (v.buf dst).len 0 = s.arg3.toNat ∧
      ∀ k, k < s.arg3.toNat → (v.buf dst).bit 0 k = (s.buf src).bit s.arg0.toNat (s.arg1.toNat + k)

/-! ## Second-stage decode -/

/-- 43_manchester.md R190, R191: `BB_MANCH` decodes pairs of unequal halves up to the limit, the row's end or the first equal
pair, appends the second halves with `AddBit`, and reports the position and the count; its checks are made in order. -/
def Obligations.ManchesterDecodesPairs : Prop :=
  (encode (.bbManch .bb0 .bb1) = 0x230#32 ∧ encode (.bbManch .bb1 .bb0) = 0x130#32) ∧
    ∀ (s : State) (src dst : Buf),
      let bb := s.buf src
      let start := s.arg1.toNat
      (dst = .bb0 → s.dst = .waitDecode → exec (.bbManch src dst) s = .next { s with status := 3 }) ∧
        ((dst = .bb0 → s.dst ≠ .waitDecode) →
          (src = dst → exec (.bbManch src dst) s = .next { s with status := 4 }) ∧
            (src ≠ dst → bb.rows.length ≤ s.arg0.toNat → exec (.bbManch src dst) s = .next { s with status := 5 }) ∧
            (src ≠ dst → s.arg0.toNat < bb.rows.length →
              ∃ cnt out, manchStops (bb.bit s.arg0.toNat) (bb.len s.arg0.toNat) start s.arg2.toNat cnt out ∧
                exec (.bbManch src dst) s = .next { s.setBuf dst (out.foldl BitBuf.addBit (s.buf dst)) with
                  res0 := BitVec.ofNat 32 (start + 2 * cnt), res1 := BitVec.ofNat 32 cnt, status := 0 }))

/-- 43_manchester.md R190, R192: `BB_DMANCH`, the same with the value of a cell 1 for equal halves and a stop at a cell without
a transition at its start; inverting every input bit changes no output bit and no stop position. -/
def Obligations.DifferentialManchesterDecodesCells : Prop :=
  (encode (.bbDmanch .bb0 .bb1) = 0x231#32 ∧ encode (.bbDmanch .bb1 .bb0) = 0x131#32) ∧
    ∀ (s : State) (src dst : Buf),
      let bb := s.buf src
      let start := s.arg1.toNat
      (dst = .bb0 → s.dst = .waitDecode → exec (.bbDmanch src dst) s = .next { s with status := 3 }) ∧
        ((dst = .bb0 → s.dst ≠ .waitDecode) →
          (src = dst → exec (.bbDmanch src dst) s = .next { s with status := 4 }) ∧
            (src ≠ dst → bb.rows.length ≤ s.arg0.toNat → exec (.bbDmanch src dst) s = .next { s with status := 5 }) ∧
            (src ≠ dst → s.arg0.toNat < bb.rows.length →
              ∃ cnt out, dmanchStops (bb.bit s.arg0.toNat) (bb.len s.arg0.toNat) start s.arg2.toNat cnt out ∧
                ∀ t : State, t = s ∨ t = s.setBuf src bb.invert →
                  exec (.bbDmanch src dst) t = .next { t.setBuf dst (out.foldl BitBuf.addBit (s.buf dst)) with
                    res0 := BitVec.ofNat 32 (start + 2 * cnt), res1 := BitVec.ofNat 32 cnt, status := 0 }))

/-- 43_manchester.md R193: a message of at most `ROW_CAP_BITS / 2` bits, encoded in either line code from either level, decodes
to itself in the cleared other buffer, with all bits consumed. An empty message opens no row (R190). -/
def Obligations.LineCodeRoundTrip : Prop :=
  ∀ (s : State) (src dst : Buf) (bits : List Bool), src ≠ dst → (dst = .bb0 → s.dst ≠ .waitDecode) →
    s.buf dst = { rows := [], ovf := false } → bits.length ≤ 2048 → s.arg1 = 0 → s.arg2.toNat = bits.length →
    let decoded : State := { s.setBuf dst { rows := if bits = [] then [] else [bits], ovf := false } with
      res0 := BitVec.ofNat 32 (2 * bits.length), res1 := BitVec.ofNat 32 bits.length, status := 0 }
    ((s.buf src).rows[s.arg0.toNat]? = some (menc bits) → exec (.bbManch src dst) s = .next decoded) ∧
      ∀ lv, (s.buf src).rows[s.arg0.toNat]? = some (dmenc lv bits) → exec (.bbDmanch src dst) s = .next decoded

/-! ## Demodulator -/

/-- 44_demodulator.md R217: `DEMOD` fills `BB0` with the demodulation of the train by the slot's profile, tags it, and returns
the row count; its refusals in order. The train is entries 0 to `PT_LEN - 1` of `PT`, pulse word first (10_state.md R43, R44). -/
def Obligations.DemodRunsOneProfile : Prop :=
  encode .demod = 0x38#32 ∧
    ∀ s : State,
      (s.rst ≠ .locked ∨ s.dst = .waitDecode → exec .demod s = .next { s with status := 3 }) ∧
        (s.rst = .locked → s.dst ≠ .waitDecode → s.reg.length ≤ s.arg0.toNat ∨ 1024 < s.ptLen.toNat →
          exec .demod s = .next { s with status := 7 }) ∧
        (s.rst = .locked → s.dst ≠ .waitDecode → s.ptLen.toNat ≤ 1024 →
          ∀ p : Desc, s.reg[s.arg0.toNat]? = some p →
            exec .demod s = .next { s with
              bb0 := (demodTrain p s.train).buf, tagV := true, tagSlot := s.arg0.setWidth 8,
              res0 := BitVec.ofNat 32 (demodTrain p s.train).buf.rows.length, status := 0 }) ∧
        s.train.length = s.ptLen.toNat ∧
        ∀ i, i < s.ptLen.toNat → s.train[i]? = some (s.wordAt (0x2000 + 8 * i), s.wordAt (0x2000 + 8 * i + 4))

/-- 44_demodulator.md R216 (1), (2), R206: no demodulation leaves an empty row, exceeds `MAX_ROWS` rows or `ROW_CAP_BITS` bits, or
sets `OVF` with room left. -/
def Obligations.DemodulatedRowsAreNonEmptyAndFit : Prop :=
  ∀ (p : Desc) (train : List (Nat × Nat)),
    (∀ row ∈ (demodTrain p train).buf.rows, row ≠ []) ∧ (demodTrain p train).buf.fits

/-- 44_demodulator.md R201 to R203: a demodulation depends on coding, widths, limits and tolerance alone (not on carrier,
`DISABLED`, priority, `BITS`, preamble or handles); PCM ignores the sync width, the Manchester codings the long and sync
widths. -/
def Obligations.DemodulationIgnoresOtherWords : Prop :=
  ∀ (p : Desc) (train : List (Nat × Nat)),
    (∀ q : Desc, p.SameTimings q → demodTrain p train = demodTrain q train) ∧
      (p.coding = 2#3 → ∀ x : Word, demodTrain { p with syncWidth := x } train = demodTrain p train) ∧
      (p.coding = 3#3 ∨ p.coding = 4#3 → ∀ x y : Word,
        demodTrain { p with longWidth := x, syncWidth := y } train = demodTrain p train)

/-- 44_demodulator.md R207: after a gap above the reset limit the pairs that follow are not looked at, in every coding. -/
def Obligations.ResetGapEndsDemodulation : Prop :=
  ∀ (p : Desc) (before after : List (Nat × Nat)) (pulse gap : Nat), p.resetLimit.toNat < gap →
    demodTrain p (before ++ (pulse, gap) :: after) = demodTrain p (before ++ [(pulse, gap)])

/-- 44_demodulator.md R204: a width is classified as the one class whose reference lies within tolerance and strictly nearer
than every other reference, and `rnd` is the nearest integer, halves upward. -/
def Obligations.ClassifyPicksUniqueNearest : Prop :=
  (∀ (p : Desc) (w : Nat) (k : Sym), k ≠ .none →
      (classify p w = k ↔ ∃ r, p.HasReference k r ∧ ((w : Int) - r).natAbs ≤ p.tolerance.toNat ∧
        ∀ k' r', p.HasReference k' r' → k' ≠ k → ((w : Int) - r).natAbs < ((w : Int) - r').natAbs)) ∧
    ∀ x t : Nat, 1 ≤ t → rnd x t * (2 * t) ≤ 2 * x + t ∧ 2 * x + t < (rnd x t + 1) * (2 * t)

/-- 44_demodulator.md R209, R210: without a sync symbol, a train whose pulses (PWM: short is 1) or gaps (PPM: short is 0)
classify as a message's bits demodulates to one row with the message. The gap after the last bit of a PWM train may exceed a
limit, and a PPM train may end in one more pulse with such a gap. -/
def Obligations.PulseWidthAndPositionTrainsDecode : Prop :=
  ∀ (p : Desc) (bits : List Bool) (train : List (Nat × Nat)), p.syncWidth = 0 → bits.length ≤ 4096 →
    let message : BitBuf := { rows := if bits = [] then [] else [bits], ovf := false }
    (p.coding = 0#3 → (∀ x ∈ train.dropLast, p.InsideLimits x.2) →
        train.map (fun x => classify p x.1) = bits.map (fun v => if v then Sym.short else Sym.long) →
        (demodTrain p train).buf = message) ∧
      (p.coding = 1#3 → (∀ x ∈ train, p.InsideLimits x.2) →
        train.map (fun x => classify p x.2) = bits.map (fun v => if v then Sym.long else Sym.short) →
        (demodTrain p train).buf = message ∧
          ∀ pulse gap, ¬ p.InsideLimits gap → (demodTrain p (train ++ [(pulse, gap)])).buf = message)

/-- 44_demodulator.md R211: exact PCM trains. Non-return-to-zero (`S = T`): a pulse of `n` periods is `n` ones, a gap of `m`
periods `m` zeros. Return-to-zero: a pulse of width `S` with a gap that completes `k` periods is a one and `k - 1` zeros. A last
pulse before a gap beyond a limit is its ones and no zeros. -/
def Obligations.PulseCodeTrainsDecode : Prop :=
  ∀ (p : Desc) (runs : List (Nat × Nat)), p.coding = 2#3 → 1 ≤ p.longWidth.toNat →
    let t := p.longWidth.toNat
    let w := p.shortWidth.toNat
    let row (train : List (Nat × Nat)) (bits : List Bool) : Prop := bits.length ≤ 4096 →
      (demodTrain p train).buf = { rows := if bits = [] then [] else [bits], ovf := false }
    (p.shortWidth = p.longWidth → (∀ r ∈ runs, 1 ≤ r.1 ∧ p.InsideLimits (r.2 * t)) →
        let train := runs.map fun r => (r.1 * t, r.2 * t)
        let bits := runs.flatMap fun r => List.replicate r.1 true ++ List.replicate r.2 false
        row train bits ∧
          ∀ n gap, 1 ≤ n → ¬ p.InsideLimits gap → row (train ++ [(n * t, gap)]) (bits ++ List.replicate n true)) ∧
      (p.shortWidth ≠ p.longWidth → (∀ r ∈ runs, w ≤ (r.2 + 1) * t ∧ p.InsideLimits ((r.2 + 1) * t - w)) →
        let train := runs.map fun r => (w, (r.2 + 1) * t - w)
        let bits := runs.flatMap fun r => true :: List.replicate r.2 false
        row train bits ∧ ∀ gap, ¬ p.InsideLimits gap → row (train ++ [(w, gap)]) (bits ++ [true]))

/-- 44_demodulator.md R213, R214 with the encoders of 43_manchester.md R193: a train of runs of one or two exact chips that spells
a message's Manchester (or, from a low level, Differential-Manchester) code demodulates to one row with the message. So does
one whose last pulse is followed by a gap beyond a limit: a last low chip of the code is then part of the silence. -/
def Obligations.ManchesterPulseTrainsDecode : Prop :=
  ∀ (p : Desc) (bits : List Bool) (runs : List (Nat × Nat)), 1 ≤ p.shortWidth.toNat → bits.length ≤ 4096 →
    (∀ r ∈ runs, (r.1 = 1 ∨ r.1 = 2) ∧ (r.2 = 1 ∨ r.2 = 2) ∧ p.InsideLimits (r.2 * p.shortWidth.toNat)) →
    let train := runs.map fun r => (r.1 * p.shortWidth.toNat, r.2 * p.shortWidth.toNat)
    let message : BitBuf := { rows := if bits = [] then [] else [bits], ovf := false }
    let decodes (code : List Bool) : Prop :=
      (runChips runs = code → (demodTrain p train).buf = message) ∧
        ∀ n gap, (n = 1 ∨ n = 2) → ¬ p.InsideLimits gap →
          (runChips runs ++ List.replicate n true = code ∨ runChips runs ++ List.replicate n true ++ [false] = code) →
          (demodTrain p (train ++ [(n * p.shortWidth.toNat, gap)])).buf = message
    (p.coding = 3#3 → decodes (menc bits)) ∧ (p.coding = 4#3 → decodes (dmenc false bits))

/-! ## Registry -/

/-- 45_registry_dispatch.md R242, R246, R247: `REG_INIT`, `REG_LOCK`, `REG_TEARDOWN`. -/
def Obligations.RegistryLifecycleCommands : Prop :=
  (encode .regInit = 0x40#32 ∧ encode .regLock = 0x42#32 ∧ encode .regTeardown = 0x43#32) ∧
    ∀ s : State,
      (s.dst = .waitDecode →
          exec .regInit s = .next { s with status := 3 } ∧ exec .regTeardown s = .next { s with status := 3 }) ∧
        (s.dst ≠ .waitDecode →
          exec .regInit s = .next { s with reg := [], rst := .opened, status := 0 } ∧
            exec .regTeardown s = .next { s with reg := [], rst := .uninit, status := 0 }) ∧
        (s.rst ≠ .opened → exec .regLock s = .next { s with status := 3 }) ∧
        (s.rst = .opened →
          exec .regLock s = .next { s with rst := .locked, res0 := BitVec.ofNat 32 s.reg.length, status := 0 })

/-- 45_registry_dispatch.md R245: `REG_ADD`, its validation and its refusals in order. -/
def Obligations.RegAddRegistersValidDescriptor : Prop :=
  encode .regAdd = 0x41#32 ∧
    ∀ s : State,
      let d := s.desc
      let valid : Prop := d.kind &&& 0xFFFFFEE8#32 = 0 ∧ d.kind.toNat % 8 ≤ 4 ∧ 1 ≤ d.shortWidth.toNat ∧
        (3 ≤ d.kind.toNat % 8 ∨ 1 ≤ d.longWidth.toNat) ∧ d.preambleBits.toNat ≤ 64 ∧ d.reserved = 0
      (s.rst ≠ .opened → exec .regAdd s = .next { s with status := 3 }) ∧
        (s.rst = .opened → ¬ valid → exec .regAdd s = .next { s with status := 7 }) ∧
        (s.rst = .opened → valid → s.reg.length = 256 → exec .regAdd s = .next { s with status := 8 }) ∧
        (s.rst = .opened → valid → s.reg.length ≠ 256 → exec .regAdd s = .next
          { s with reg := s.reg ++ [d], res0 := BitVec.ofNat 32 s.reg.length, status := 0 })

/-! ## Dispatcher -/

/-- 45_registry_dispatch.md R255: the first slot in dispatch order with a property has it and has the least pair of signed
priority and slot number; there is none only where no slot has the property. -/
def Obligations.FirstSlotIsLeastInDispatchOrder : Prop :=
  ∀ (s : State) (x : Nat → Bool),
    (∀ c, s.firstSlot x = some c ↔ c < s.reg.length ∧ x c = true ∧
        ∀ i, i < s.reg.length → x i = true → (s.slot c).priority.toInt < (s.slot i).priority.toInt ∨
          ((s.slot c).priority.toInt = (s.slot i).priority.toInt ∧ c ≤ i)) ∧
      (s.firstSlot x = none ↔ ∀ i, i < s.reg.length → x i = false)

/-- 45_registry_dispatch.md R256, R257, R259: compatibility and eligibility, and that directly after a demodulation the first
decoder is the candidate itself. -/
def Obligations.CandidateIsItsOwnFirstDecoder : Prop :=
  (∀ c d : Desc, compatible c d = true ↔
      c.kind.toNat % 8 = d.kind.toNat % 8 ∧ c.kind.getLsbD 4 = d.kind.getLsbD 4 ∧
        let near (x y : Word) : Prop := ((x.toNat : Int) - y.toNat).natAbs ≤ d.tolerance.toNat
        near c.shortWidth d.shortWidth ∧ near c.longWidth d.longWidth ∧ near c.syncWidth d.syncWidth ∧
          near c.gapLimit d.gapLimit ∧ near c.resetLimit d.resetLimit) ∧
    (∀ (s : State) (i : Nat), s.eligible i = true ↔
      i < s.reg.length ∧ (s.slot i).kind.getLsbD 8 = false ∧ s.tried.getLsbD i = false) ∧
    ∀ (s : State) (c : Nat), s.firstSlot s.eligible = some c →
      s.firstSlot (fun d => s.eligible d && compatible (s.slot c) (s.slot d)) = some c ∧
        (s.candidate c).firstSlot ((s.candidate c).servedBy c) = some c

/-- 45_registry_dispatch.md R260 with R258: `DSP_START` clears the dispatch and selects the first candidate that yields a row, or
ends in `DONE`; it completes for every registry of at most `REG_SLOTS` descriptors. What a selection writes (`CAND`, `BB0`, its
tag; `CUR`, `TRIED`, `BB1`, `FLIP`, `DST`) is written out in `State.candidate` and `State.awaits`. -/
def Obligations.DspStartSelectsFirstDecoder : Prop :=
  encode .dspStart = 0x48#32 ∧
    ∀ s : State,
      (s.rst ≠ .locked ∨ s.dst = .waitDecode → exec .dspStart s = .next { s with status := 3 }) ∧
        (s.rst = .locked → s.dst ≠ .waitDecode → 1024 < s.ptLen.toNat → exec .dspStart s = .next { s with status := 7 }) ∧
        (s.rst = .locked → s.dst ≠ .waitDecode → s.ptLen.toNat ≤ 1024 → s.reg.length ≤ 256 →
          ∃ u, SelectsCandidate { s with tried := 0, nrec := 0, natt := 0, nmatch := 0, last := 0, matchV := false,
                                         matchSlot := 0, flip := false } u ∧
            exec .dspStart s = .next { u with status := 0 })

/-- 45_registry_dispatch.md R263 with R258, R259: `DSP_RETURN` restores `BB0`, records the normalised outcome and emits its event;
after a positive count it counts the match, passes over every decoder of this buffer and selects the next candidate, else it
selects the next decoder; it completes for every registry of at most `REG_SLOTS` descriptors. -/
def Obligations.DspReturnRecordsAndContinues : Prop :=
  encode .dspReturn = 0x49#32 ∧
    ∀ s : State,
      let v : Word := if -4 ≤ s.arg0.toInt then s.arg0 else 0
      let recorded : State := { s with
        bb0 := if s.flip then s.bb0.invert else s.bb0, flip := false, natt := s.natt + 1, last := v,
        evt := s.evt ++ [{ cand := s.cand, cur := s.cur, outcome := v, level := eventLevel v }] }
      (s.dst ≠ .waitDecode → exec .dspReturn s = .next { s with status := 3 }) ∧
        (s.dst = .waitDecode → s.reg.length ≤ 256 → 1 ≤ v.toInt →
          ∃ tr u, s.PassedOver (fun d => compatible (s.slot s.cand.toNat) (s.slot d)) tr ∧
            SelectsCandidate { recorded with nrec := s.nrec + v, nmatch := s.nmatch + 1, matchV := true,
                                             matchSlot := if s.matchV then s.matchSlot else s.cur, tried := tr } u ∧
            exec .dspReturn s = .next { u with status := 0 }) ∧
        (s.dst = .waitDecode → s.reg.length ≤ 256 → v.toInt < 1 →
          ∃ u, SelectsDecoder recorded u ∧ exec .dspReturn s = .next { u with status := 0 })

/-- 45_registry_dispatch.md R265: `DSP_ACK`. -/
def Obligations.DspAckReturnsToIdle : Prop :=
  encode .dspAck = 0x4A#32 ∧
    ∀ s : State, (s.dst ≠ .done → exec .dspAck s = .next { s with status := 3 }) ∧
      (s.dst = .done → exec .dspAck s = .next { s with dst := .idle, status := 0 })

/-- 45_registry_dispatch.md R267 (3), R262: the sequence of candidates and decoders is a function of the locked registry, the
pulse train and the outcomes. Two states that agree on them start the same dispatch; equal outcomes keep it the same, with
the same buffer offered; and nothing HOST does in between, but `DSP_RETURN` and `RESET`, leaves it. -/
def Obligations.DispatchDependsOnRegistryTrainOutcomes : Prop :=
  (∀ s s' t : State, s.reg = s'.reg → s.rst = s'.rst → s.ptLen = s'.ptLen → s.train = s'.train → s.rst = .locked →
      s.dst ≠ .waitDecode → s'.dst ≠ .waitDecode → s.ptLen.toNat ≤ 1024 → exec .dspStart s = .next t →
      ∃ t', exec .dspStart s' = .next t' ∧ SameDispatch t t') ∧
    (∀ s s' t : State, SameDispatch s s' → s.arg0 = s'.arg0 → exec .dspReturn s = .next t →
      ∃ t', exec .dspReturn s' = .next t' ∧ SameDispatch t t') ∧
    ∀ s t : State, s.dst = .waitDecode → s.rst = .locked → s.requests.head? ≠ some .reset →
      s.requests.head? ≠ some (.write .four 0x10#15 0x49#32) → step s = .next t → SameDispatch s t

/-! ## Runs -/

/-- The state after reset meets the invariant of `State.Inv`. -/
def Obligations.ResetMeetsInvariant : Prop := State.reset.Inv

/-- 10_state.md R41, R46 to R48, 45_registry_dispatch.md R241, R257, R267: every step keeps the invariant of `State.Inv`. -/
def Obligations.EveryStepKeepsInvariant : Prop :=
  ∀ s t : State, s.Inv → step s = .next t → t.Inv

/-- 45_registry_dispatch.md R267 (1): an executed `DSP_RETURN` leaves `NATT` at most `NREG`, and one that selects another decoder
leaves fewer attempts than slots. -/
def Obligations.AttemptsNeverExceedSlots : Prop :=
  ∀ s t : State, s.Inv → s.dst = .waitDecode → exec .dspReturn s = .next t →
    t.natt.toNat = s.natt.toNat + 1 ∧ t.natt.toNat ≤ t.reg.length ∧ (t.dst = .waitDecode → t.natt.toNat < t.reg.length)

/-- 60_exceptions.md R280: after every access the block is ready for the next one; in a state that meets the invariant no step
stops. -/
def Obligations.EveryStepAnswersNext : Prop :=
  ∀ s : State, s.Inv → ∃ t, step s = .next t

/-! ## Demodulation of every train -/

/-- 44_demodulator.md R204 to R210, R215, R216: every PWM and every PPM train, under every profile, leaves exactly the rows of its
marks: sync symbols, aborts, boundary gaps and the reset gap included, up to the capacity of the buffer. -/
def Obligations.PwmAndPpmLeaveTheRowsOfTheirMarks : Prop :=
  ∀ (p : Desc) (train : List (Nat × Nat)),
    (p.kind.toNat % 8 = 0 → (demodTrain p train).buf = stored (p.rowsOfMarks (pwmMarks p train))) ∧
      (p.kind.toNat % 8 = 1 → (demodTrain p train).buf = stored (p.rowsOfMarks (ppmMarks p train)))

/-- 44_demodulator.md R205 to R207, R211 to R216: every PCM, Manchester and Differential-Manchester train, under every profile,
leaves exactly the rows its pulses and gaps stand for: aborts, boundary gaps, the reset gap and the open half-bit included. -/
def Obligations.PcmAndManchesterLeaveTheRowsTheyStandFor : Prop :=
  ∀ (p : Desc) (train : List (Nat × Nat)),
    (p.kind.toNat % 8 = 2 → (demodTrain p train).buf = stored (rowsFrom [] (pcmOutputs p train))) ∧
      (p.kind.toNat % 8 = 3 → (demodTrain p train).buf = stored (p.rowsOfChips false train)) ∧
      (p.kind.toNat % 8 = 4 → (demodTrain p train).buf = stored (p.rowsOfChips true train))
end

