-- ==== Sys2Proof/Laws/State.lean ====
section
/-!
SUPPORT. One lemma per field per named update of the state, so that no later proof unfolds a record update.
-/

namespace Sys2Proof.Machine

variable (s : State)

/-! `State.refuse`: A refusal writes `STATUS` alone (R283). -/

@[simp] theorem State.refuse_arg0 (c : RefuseCode) : (s.refuse c).arg0 = s.arg0 := rfl
@[simp] theorem State.refuse_arg1 (c : RefuseCode) : (s.refuse c).arg1 = s.arg1 := rfl
@[simp] theorem State.refuse_arg2 (c : RefuseCode) : (s.refuse c).arg2 = s.arg2 := rfl
@[simp] theorem State.refuse_arg3 (c : RefuseCode) : (s.refuse c).arg3 = s.arg3 := rfl
@[simp] theorem State.refuse_res0 (c : RefuseCode) : (s.refuse c).res0 = s.res0 := rfl
@[simp] theorem State.refuse_res1 (c : RefuseCode) : (s.refuse c).res1 = s.res1 := rfl
@[simp] theorem State.refuse_status (c : RefuseCode) : (s.refuse c).status = c.code := rfl
@[simp] theorem State.refuse_lastCmd (c : RefuseCode) : (s.refuse c).lastCmd = s.lastCmd := rfl
@[simp] theorem State.refuse_ie (c : RefuseCode) : (s.refuse c).ie = s.ie := rfl
@[simp] theorem State.refuse_ptLen (c : RefuseCode) : (s.refuse c).ptLen = s.ptLen := rfl
@[simp] theorem State.refuse_mem (c : RefuseCode) : (s.refuse c).mem = s.mem := rfl
@[simp] theorem State.refuse_desc (c : RefuseCode) : (s.refuse c).desc = s.desc := rfl
@[simp] theorem State.refuse_reg (c : RefuseCode) : (s.refuse c).reg = s.reg := rfl
@[simp] theorem State.refuse_rst (c : RefuseCode) : (s.refuse c).rst = s.rst := rfl
@[simp] theorem State.refuse_bb0 (c : RefuseCode) : (s.refuse c).bb0 = s.bb0 := rfl
@[simp] theorem State.refuse_bb1 (c : RefuseCode) : (s.refuse c).bb1 = s.bb1 := rfl
@[simp] theorem State.refuse_tagV (c : RefuseCode) : (s.refuse c).tagV = s.tagV := rfl
@[simp] theorem State.refuse_tagSlot (c : RefuseCode) : (s.refuse c).tagSlot = s.tagSlot := rfl
@[simp] theorem State.refuse_dst (c : RefuseCode) : (s.refuse c).dst = s.dst := rfl
@[simp] theorem State.refuse_cand (c : RefuseCode) : (s.refuse c).cand = s.cand := rfl
@[simp] theorem State.refuse_cur (c : RefuseCode) : (s.refuse c).cur = s.cur := rfl
@[simp] theorem State.refuse_tried (c : RefuseCode) : (s.refuse c).tried = s.tried := rfl
@[simp] theorem State.refuse_flip (c : RefuseCode) : (s.refuse c).flip = s.flip := rfl
@[simp] theorem State.refuse_nrec (c : RefuseCode) : (s.refuse c).nrec = s.nrec := rfl
@[simp] theorem State.refuse_natt (c : RefuseCode) : (s.refuse c).natt = s.natt := rfl
@[simp] theorem State.refuse_nmatch (c : RefuseCode) : (s.refuse c).nmatch = s.nmatch := rfl
@[simp] theorem State.refuse_last (c : RefuseCode) : (s.refuse c).last = s.last := rfl
@[simp] theorem State.refuse_matchV (c : RefuseCode) : (s.refuse c).matchV = s.matchV := rfl
@[simp] theorem State.refuse_matchSlot (c : RefuseCode) : (s.refuse c).matchSlot = s.matchSlot := rfl
@[simp] theorem State.refuse_evt (c : RefuseCode) : (s.refuse c).evt = s.evt := rfl
@[simp] theorem State.refuse_epoch (c : RefuseCode) : (s.refuse c).epoch = s.epoch := rfl
@[simp] theorem State.refuse_requests (c : RefuseCode) : (s.refuse c).requests = s.requests := rfl
@[simp] theorem State.refuse_resp (c : RefuseCode) : (s.refuse c).resp = s.resp := rfl

/-! `State.accept`: An executed command ends with `STATUS <- 0` (R100). -/

@[simp] theorem State.accept_arg0 : (s.accept).arg0 = s.arg0 := rfl
@[simp] theorem State.accept_arg1 : (s.accept).arg1 = s.arg1 := rfl
@[simp] theorem State.accept_arg2 : (s.accept).arg2 = s.arg2 := rfl
@[simp] theorem State.accept_arg3 : (s.accept).arg3 = s.arg3 := rfl
@[simp] theorem State.accept_res0 : (s.accept).res0 = s.res0 := rfl
@[simp] theorem State.accept_res1 : (s.accept).res1 = s.res1 := rfl
@[simp] theorem State.accept_status : (s.accept).status = 0 := rfl
@[simp] theorem State.accept_lastCmd : (s.accept).lastCmd = s.lastCmd := rfl
@[simp] theorem State.accept_ie : (s.accept).ie = s.ie := rfl
@[simp] theorem State.accept_ptLen : (s.accept).ptLen = s.ptLen := rfl
@[simp] theorem State.accept_mem : (s.accept).mem = s.mem := rfl
@[simp] theorem State.accept_desc : (s.accept).desc = s.desc := rfl
@[simp] theorem State.accept_reg : (s.accept).reg = s.reg := rfl
@[simp] theorem State.accept_rst : (s.accept).rst = s.rst := rfl
@[simp] theorem State.accept_bb0 : (s.accept).bb0 = s.bb0 := rfl
@[simp] theorem State.accept_bb1 : (s.accept).bb1 = s.bb1 := rfl
@[simp] theorem State.accept_tagV : (s.accept).tagV = s.tagV := rfl
@[simp] theorem State.accept_tagSlot : (s.accept).tagSlot = s.tagSlot := rfl
@[simp] theorem State.accept_dst : (s.accept).dst = s.dst := rfl
@[simp] theorem State.accept_cand : (s.accept).cand = s.cand := rfl
@[simp] theorem State.accept_cur : (s.accept).cur = s.cur := rfl
@[simp] theorem State.accept_tried : (s.accept).tried = s.tried := rfl
@[simp] theorem State.accept_flip : (s.accept).flip = s.flip := rfl
@[simp] theorem State.accept_nrec : (s.accept).nrec = s.nrec := rfl
@[simp] theorem State.accept_natt : (s.accept).natt = s.natt := rfl
@[simp] theorem State.accept_nmatch : (s.accept).nmatch = s.nmatch := rfl
@[simp] theorem State.accept_last : (s.accept).last = s.last := rfl
@[simp] theorem State.accept_matchV : (s.accept).matchV = s.matchV := rfl
@[simp] theorem State.accept_matchSlot : (s.accept).matchSlot = s.matchSlot := rfl
@[simp] theorem State.accept_evt : (s.accept).evt = s.evt := rfl
@[simp] theorem State.accept_epoch : (s.accept).epoch = s.epoch := rfl
@[simp] theorem State.accept_requests : (s.accept).requests = s.requests := rfl
@[simp] theorem State.accept_resp : (s.accept).resp = s.resp := rfl

/-! `State.setRes0`: `RES0 <- v`. -/

@[simp] theorem State.setRes0_arg0 (v : Word) : (s.setRes0 v).arg0 = s.arg0 := rfl
@[simp] theorem State.setRes0_arg1 (v : Word) : (s.setRes0 v).arg1 = s.arg1 := rfl
@[simp] theorem State.setRes0_arg2 (v : Word) : (s.setRes0 v).arg2 = s.arg2 := rfl
@[simp] theorem State.setRes0_arg3 (v : Word) : (s.setRes0 v).arg3 = s.arg3 := rfl
@[simp] theorem State.setRes0_res0 (v : Word) : (s.setRes0 v).res0 = v := rfl
@[simp] theorem State.setRes0_res1 (v : Word) : (s.setRes0 v).res1 = s.res1 := rfl
@[simp] theorem State.setRes0_status (v : Word) : (s.setRes0 v).status = s.status := rfl
@[simp] theorem State.setRes0_lastCmd (v : Word) : (s.setRes0 v).lastCmd = s.lastCmd := rfl
@[simp] theorem State.setRes0_ie (v : Word) : (s.setRes0 v).ie = s.ie := rfl
@[simp] theorem State.setRes0_ptLen (v : Word) : (s.setRes0 v).ptLen = s.ptLen := rfl
@[simp] theorem State.setRes0_mem (v : Word) : (s.setRes0 v).mem = s.mem := rfl
@[simp] theorem State.setRes0_desc (v : Word) : (s.setRes0 v).desc = s.desc := rfl
@[simp] theorem State.setRes0_reg (v : Word) : (s.setRes0 v).reg = s.reg := rfl
@[simp] theorem State.setRes0_rst (v : Word) : (s.setRes0 v).rst = s.rst := rfl
@[simp] theorem State.setRes0_bb0 (v : Word) : (s.setRes0 v).bb0 = s.bb0 := rfl
@[simp] theorem State.setRes0_bb1 (v : Word) : (s.setRes0 v).bb1 = s.bb1 := rfl
@[simp] theorem State.setRes0_tagV (v : Word) : (s.setRes0 v).tagV = s.tagV := rfl
@[simp] theorem State.setRes0_tagSlot (v : Word) : (s.setRes0 v).tagSlot = s.tagSlot := rfl
@[simp] theorem State.setRes0_dst (v : Word) : (s.setRes0 v).dst = s.dst := rfl
@[simp] theorem State.setRes0_cand (v : Word) : (s.setRes0 v).cand = s.cand := rfl
@[simp] theorem State.setRes0_cur (v : Word) : (s.setRes0 v).cur = s.cur := rfl
@[simp] theorem State.setRes0_tried (v : Word) : (s.setRes0 v).tried = s.tried := rfl
@[simp] theorem State.setRes0_flip (v : Word) : (s.setRes0 v).flip = s.flip := rfl
@[simp] theorem State.setRes0_nrec (v : Word) : (s.setRes0 v).nrec = s.nrec := rfl
@[simp] theorem State.setRes0_natt (v : Word) : (s.setRes0 v).natt = s.natt := rfl
@[simp] theorem State.setRes0_nmatch (v : Word) : (s.setRes0 v).nmatch = s.nmatch := rfl
@[simp] theorem State.setRes0_last (v : Word) : (s.setRes0 v).last = s.last := rfl
@[simp] theorem State.setRes0_matchV (v : Word) : (s.setRes0 v).matchV = s.matchV := rfl
@[simp] theorem State.setRes0_matchSlot (v : Word) : (s.setRes0 v).matchSlot = s.matchSlot := rfl
@[simp] theorem State.setRes0_evt (v : Word) : (s.setRes0 v).evt = s.evt := rfl
@[simp] theorem State.setRes0_epoch (v : Word) : (s.setRes0 v).epoch = s.epoch := rfl
@[simp] theorem State.setRes0_requests (v : Word) : (s.setRes0 v).requests = s.requests := rfl
@[simp] theorem State.setRes0_resp (v : Word) : (s.setRes0 v).resp = s.resp := rfl

/-! `State.setRes1`: `RES1 <- v`. -/

@[simp] theorem State.setRes1_arg0 (v : Word) : (s.setRes1 v).arg0 = s.arg0 := rfl
@[simp] theorem State.setRes1_arg1 (v : Word) : (s.setRes1 v).arg1 = s.arg1 := rfl
@[simp] theorem State.setRes1_arg2 (v : Word) : (s.setRes1 v).arg2 = s.arg2 := rfl
@[simp] theorem State.setRes1_arg3 (v : Word) : (s.setRes1 v).arg3 = s.arg3 := rfl
@[simp] theorem State.setRes1_res0 (v : Word) : (s.setRes1 v).res0 = s.res0 := rfl
@[simp] theorem State.setRes1_res1 (v : Word) : (s.setRes1 v).res1 = v := rfl
@[simp] theorem State.setRes1_status (v : Word) : (s.setRes1 v).status = s.status := rfl
@[simp] theorem State.setRes1_lastCmd (v : Word) : (s.setRes1 v).lastCmd = s.lastCmd := rfl
@[simp] theorem State.setRes1_ie (v : Word) : (s.setRes1 v).ie = s.ie := rfl
@[simp] theorem State.setRes1_ptLen (v : Word) : (s.setRes1 v).ptLen = s.ptLen := rfl
@[simp] theorem State.setRes1_mem (v : Word) : (s.setRes1 v).mem = s.mem := rfl
@[simp] theorem State.setRes1_desc (v : Word) : (s.setRes1 v).desc = s.desc := rfl
@[simp] theorem State.setRes1_reg (v : Word) : (s.setRes1 v).reg = s.reg := rfl
@[simp] theorem State.setRes1_rst (v : Word) : (s.setRes1 v).rst = s.rst := rfl
@[simp] theorem State.setRes1_bb0 (v : Word) : (s.setRes1 v).bb0 = s.bb0 := rfl
@[simp] theorem State.setRes1_bb1 (v : Word) : (s.setRes1 v).bb1 = s.bb1 := rfl
@[simp] theorem State.setRes1_tagV (v : Word) : (s.setRes1 v).tagV = s.tagV := rfl
@[simp] theorem State.setRes1_tagSlot (v : Word) : (s.setRes1 v).tagSlot = s.tagSlot := rfl
@[simp] theorem State.setRes1_dst (v : Word) : (s.setRes1 v).dst = s.dst := rfl
@[simp] theorem State.setRes1_cand (v : Word) : (s.setRes1 v).cand = s.cand := rfl
@[simp] theorem State.setRes1_cur (v : Word) : (s.setRes1 v).cur = s.cur := rfl
@[simp] theorem State.setRes1_tried (v : Word) : (s.setRes1 v).tried = s.tried := rfl
@[simp] theorem State.setRes1_flip (v : Word) : (s.setRes1 v).flip = s.flip := rfl
@[simp] theorem State.setRes1_nrec (v : Word) : (s.setRes1 v).nrec = s.nrec := rfl
@[simp] theorem State.setRes1_natt (v : Word) : (s.setRes1 v).natt = s.natt := rfl
@[simp] theorem State.setRes1_nmatch (v : Word) : (s.setRes1 v).nmatch = s.nmatch := rfl
@[simp] theorem State.setRes1_last (v : Word) : (s.setRes1 v).last = s.last := rfl
@[simp] theorem State.setRes1_matchV (v : Word) : (s.setRes1 v).matchV = s.matchV := rfl
@[simp] theorem State.setRes1_matchSlot (v : Word) : (s.setRes1 v).matchSlot = s.matchSlot := rfl
@[simp] theorem State.setRes1_evt (v : Word) : (s.setRes1 v).evt = s.evt := rfl
@[simp] theorem State.setRes1_epoch (v : Word) : (s.setRes1 v).epoch = s.epoch := rfl
@[simp] theorem State.setRes1_requests (v : Word) : (s.setRes1 v).requests = s.requests := rfl
@[simp] theorem State.setRes1_resp (v : Word) : (s.setRes1 v).resp = s.resp := rfl

/-! `State.setBuf`: A buffer is replaced. -/

@[simp] theorem State.setBuf_arg0 (b : Buf) (v : BitBuf) : (s.setBuf b v).arg0 = s.arg0 := by cases b <;> rfl
@[simp] theorem State.setBuf_arg1 (b : Buf) (v : BitBuf) : (s.setBuf b v).arg1 = s.arg1 := by cases b <;> rfl
@[simp] theorem State.setBuf_arg2 (b : Buf) (v : BitBuf) : (s.setBuf b v).arg2 = s.arg2 := by cases b <;> rfl
@[simp] theorem State.setBuf_arg3 (b : Buf) (v : BitBuf) : (s.setBuf b v).arg3 = s.arg3 := by cases b <;> rfl
@[simp] theorem State.setBuf_res0 (b : Buf) (v : BitBuf) : (s.setBuf b v).res0 = s.res0 := by cases b <;> rfl
@[simp] theorem State.setBuf_res1 (b : Buf) (v : BitBuf) : (s.setBuf b v).res1 = s.res1 := by cases b <;> rfl
@[simp] theorem State.setBuf_status (b : Buf) (v : BitBuf) : (s.setBuf b v).status = s.status := by cases b <;> rfl
@[simp] theorem State.setBuf_lastCmd (b : Buf) (v : BitBuf) : (s.setBuf b v).lastCmd = s.lastCmd := by cases b <;> rfl
@[simp] theorem State.setBuf_ie (b : Buf) (v : BitBuf) : (s.setBuf b v).ie = s.ie := by cases b <;> rfl
@[simp] theorem State.setBuf_ptLen (b : Buf) (v : BitBuf) : (s.setBuf b v).ptLen = s.ptLen := by cases b <;> rfl
@[simp] theorem State.setBuf_mem (b : Buf) (v : BitBuf) : (s.setBuf b v).mem = s.mem := by cases b <;> rfl
@[simp] theorem State.setBuf_desc (b : Buf) (v : BitBuf) : (s.setBuf b v).desc = s.desc := by cases b <;> rfl
@[simp] theorem State.setBuf_reg (b : Buf) (v : BitBuf) : (s.setBuf b v).reg = s.reg := by cases b <;> rfl
@[simp] theorem State.setBuf_rst (b : Buf) (v : BitBuf) : (s.setBuf b v).rst = s.rst := by cases b <;> rfl
@[simp] theorem State.setBuf_bb0 (b : Buf) (v : BitBuf) :
    (s.setBuf b v).bb0 = match b with | .bb0 => v | .bb1 => s.bb0 := by cases b <;> rfl
@[simp] theorem State.setBuf_bb1 (b : Buf) (v : BitBuf) :
    (s.setBuf b v).bb1 = match b with | .bb0 => s.bb1 | .bb1 => v := by cases b <;> rfl
@[simp] theorem State.setBuf_tagV (b : Buf) (v : BitBuf) : (s.setBuf b v).tagV = s.tagV := by cases b <;> rfl
@[simp] theorem State.setBuf_tagSlot (b : Buf) (v : BitBuf) : (s.setBuf b v).tagSlot = s.tagSlot := by cases b <;> rfl
@[simp] theorem State.setBuf_dst (b : Buf) (v : BitBuf) : (s.setBuf b v).dst = s.dst := by cases b <;> rfl
@[simp] theorem State.setBuf_cand (b : Buf) (v : BitBuf) : (s.setBuf b v).cand = s.cand := by cases b <;> rfl
@[simp] theorem State.setBuf_cur (b : Buf) (v : BitBuf) : (s.setBuf b v).cur = s.cur := by cases b <;> rfl
@[simp] theorem State.setBuf_tried (b : Buf) (v : BitBuf) : (s.setBuf b v).tried = s.tried := by cases b <;> rfl
@[simp] theorem State.setBuf_flip (b : Buf) (v : BitBuf) : (s.setBuf b v).flip = s.flip := by cases b <;> rfl
@[simp] theorem State.setBuf_nrec (b : Buf) (v : BitBuf) : (s.setBuf b v).nrec = s.nrec := by cases b <;> rfl
@[simp] theorem State.setBuf_natt (b : Buf) (v : BitBuf) : (s.setBuf b v).natt = s.natt := by cases b <;> rfl
@[simp] theorem State.setBuf_nmatch (b : Buf) (v : BitBuf) : (s.setBuf b v).nmatch = s.nmatch := by cases b <;> rfl
@[simp] theorem State.setBuf_last (b : Buf) (v : BitBuf) : (s.setBuf b v).last = s.last := by cases b <;> rfl
@[simp] theorem State.setBuf_matchV (b : Buf) (v : BitBuf) : (s.setBuf b v).matchV = s.matchV := by cases b <;> rfl
@[simp] theorem State.setBuf_matchSlot (b : Buf) (v : BitBuf) :
    (s.setBuf b v).matchSlot = s.matchSlot := by cases b <;> rfl
@[simp] theorem State.setBuf_evt (b : Buf) (v : BitBuf) : (s.setBuf b v).evt = s.evt := by cases b <;> rfl
@[simp] theorem State.setBuf_epoch (b : Buf) (v : BitBuf) : (s.setBuf b v).epoch = s.epoch := by cases b <;> rfl
@[simp] theorem State.setBuf_requests (b : Buf) (v : BitBuf) :
    (s.setBuf b v).requests = s.requests := by cases b <;> rfl
@[simp] theorem State.setBuf_resp (b : Buf) (v : BitBuf) : (s.setBuf b v).resp = s.resp := by cases b <;> rfl

/-! `State.writeBytesAt`: Bytes of `SCR` or `PT` are stored. -/

@[simp] theorem State.writeBytesAt_arg0 (a : Nat) (bs : List Byte) : (s.writeBytesAt a bs).arg0 = s.arg0 := rfl
@[simp] theorem State.writeBytesAt_arg1 (a : Nat) (bs : List Byte) : (s.writeBytesAt a bs).arg1 = s.arg1 := rfl
@[simp] theorem State.writeBytesAt_arg2 (a : Nat) (bs : List Byte) : (s.writeBytesAt a bs).arg2 = s.arg2 := rfl
@[simp] theorem State.writeBytesAt_arg3 (a : Nat) (bs : List Byte) : (s.writeBytesAt a bs).arg3 = s.arg3 := rfl
@[simp] theorem State.writeBytesAt_res0 (a : Nat) (bs : List Byte) : (s.writeBytesAt a bs).res0 = s.res0 := rfl
@[simp] theorem State.writeBytesAt_res1 (a : Nat) (bs : List Byte) : (s.writeBytesAt a bs).res1 = s.res1 := rfl
@[simp] theorem State.writeBytesAt_status (a : Nat) (bs : List Byte) : (s.writeBytesAt a bs).status = s.status := rfl
@[simp] theorem State.writeBytesAt_lastCmd (a : Nat) (bs : List Byte) :
    (s.writeBytesAt a bs).lastCmd = s.lastCmd := rfl
@[simp] theorem State.writeBytesAt_ie (a : Nat) (bs : List Byte) : (s.writeBytesAt a bs).ie = s.ie := rfl
@[simp] theorem State.writeBytesAt_ptLen (a : Nat) (bs : List Byte) : (s.writeBytesAt a bs).ptLen = s.ptLen := rfl
@[simp] theorem State.writeBytesAt_mem (a : Nat) (bs : List Byte) :
    (s.writeBytesAt a bs).mem = Memory.writeBytes s.mem a bs := rfl
@[simp] theorem State.writeBytesAt_desc (a : Nat) (bs : List Byte) : (s.writeBytesAt a bs).desc = s.desc := rfl
@[simp] theorem State.writeBytesAt_reg (a : Nat) (bs : List Byte) : (s.writeBytesAt a bs).reg = s.reg := rfl
@[simp] theorem State.writeBytesAt_rst (a : Nat) (bs : List Byte) : (s.writeBytesAt a bs).rst = s.rst := rfl
@[simp] theorem State.writeBytesAt_bb0 (a : Nat) (bs : List Byte) : (s.writeBytesAt a bs).bb0 = s.bb0 := rfl
@[simp] theorem State.writeBytesAt_bb1 (a : Nat) (bs : List Byte) : (s.writeBytesAt a bs).bb1 = s.bb1 := rfl
@[simp] theorem State.writeBytesAt_tagV (a : Nat) (bs : List Byte) : (s.writeBytesAt a bs).tagV = s.tagV := rfl
@[simp] theorem State.writeBytesAt_tagSlot (a : Nat) (bs : List Byte) :
    (s.writeBytesAt a bs).tagSlot = s.tagSlot := rfl
@[simp] theorem State.writeBytesAt_dst (a : Nat) (bs : List Byte) : (s.writeBytesAt a bs).dst = s.dst := rfl
@[simp] theorem State.writeBytesAt_cand (a : Nat) (bs : List Byte) : (s.writeBytesAt a bs).cand = s.cand := rfl
@[simp] theorem State.writeBytesAt_cur (a : Nat) (bs : List Byte) : (s.writeBytesAt a bs).cur = s.cur := rfl
@[simp] theorem State.writeBytesAt_tried (a : Nat) (bs : List Byte) : (s.writeBytesAt a bs).tried = s.tried := rfl
@[simp] theorem State.writeBytesAt_flip (a : Nat) (bs : List Byte) : (s.writeBytesAt a bs).flip = s.flip := rfl
@[simp] theorem State.writeBytesAt_nrec (a : Nat) (bs : List Byte) : (s.writeBytesAt a bs).nrec = s.nrec := rfl
@[simp] theorem State.writeBytesAt_natt (a : Nat) (bs : List Byte) : (s.writeBytesAt a bs).natt = s.natt := rfl
@[simp] theorem State.writeBytesAt_nmatch (a : Nat) (bs : List Byte) : (s.writeBytesAt a bs).nmatch = s.nmatch := rfl
@[simp] theorem State.writeBytesAt_last (a : Nat) (bs : List Byte) : (s.writeBytesAt a bs).last = s.last := rfl
@[simp] theorem State.writeBytesAt_matchV (a : Nat) (bs : List Byte) : (s.writeBytesAt a bs).matchV = s.matchV := rfl
@[simp] theorem State.writeBytesAt_matchSlot (a : Nat) (bs : List Byte) :
    (s.writeBytesAt a bs).matchSlot = s.matchSlot := rfl
@[simp] theorem State.writeBytesAt_evt (a : Nat) (bs : List Byte) : (s.writeBytesAt a bs).evt = s.evt := rfl
@[simp] theorem State.writeBytesAt_epoch (a : Nat) (bs : List Byte) : (s.writeBytesAt a bs).epoch = s.epoch := rfl
@[simp] theorem State.writeBytesAt_requests (a : Nat) (bs : List Byte) :
    (s.writeBytesAt a bs).requests = s.requests := rfl
@[simp] theorem State.writeBytesAt_resp (a : Nat) (bs : List Byte) : (s.writeBytesAt a bs).resp = s.resp := rfl

/-! `State.writeScr`: Bytes of `SCR` are stored. -/

@[simp] theorem State.writeScr_arg0 (a : Nat) (bs : List Byte) : (s.writeScr a bs).arg0 = s.arg0 := rfl
@[simp] theorem State.writeScr_arg1 (a : Nat) (bs : List Byte) : (s.writeScr a bs).arg1 = s.arg1 := rfl
@[simp] theorem State.writeScr_arg2 (a : Nat) (bs : List Byte) : (s.writeScr a bs).arg2 = s.arg2 := rfl
@[simp] theorem State.writeScr_arg3 (a : Nat) (bs : List Byte) : (s.writeScr a bs).arg3 = s.arg3 := rfl
@[simp] theorem State.writeScr_res0 (a : Nat) (bs : List Byte) : (s.writeScr a bs).res0 = s.res0 := rfl
@[simp] theorem State.writeScr_res1 (a : Nat) (bs : List Byte) : (s.writeScr a bs).res1 = s.res1 := rfl
@[simp] theorem State.writeScr_status (a : Nat) (bs : List Byte) : (s.writeScr a bs).status = s.status := rfl
@[simp] theorem State.writeScr_lastCmd (a : Nat) (bs : List Byte) : (s.writeScr a bs).lastCmd = s.lastCmd := rfl
@[simp] theorem State.writeScr_ie (a : Nat) (bs : List Byte) : (s.writeScr a bs).ie = s.ie := rfl
@[simp] theorem State.writeScr_ptLen (a : Nat) (bs : List Byte) : (s.writeScr a bs).ptLen = s.ptLen := rfl
@[simp] theorem State.writeScr_mem (a : Nat) (bs : List Byte) :
    (s.writeScr a bs).mem = Memory.writeBytes s.mem (Config.scrBase + a) bs := rfl
@[simp] theorem State.writeScr_desc (a : Nat) (bs : List Byte) : (s.writeScr a bs).desc = s.desc := rfl
@[simp] theorem State.writeScr_reg (a : Nat) (bs : List Byte) : (s.writeScr a bs).reg = s.reg := rfl
@[simp] theorem State.writeScr_rst (a : Nat) (bs : List Byte) : (s.writeScr a bs).rst = s.rst := rfl
@[simp] theorem State.writeScr_bb0 (a : Nat) (bs : List Byte) : (s.writeScr a bs).bb0 = s.bb0 := rfl
@[simp] theorem State.writeScr_bb1 (a : Nat) (bs : List Byte) : (s.writeScr a bs).bb1 = s.bb1 := rfl
@[simp] theorem State.writeScr_tagV (a : Nat) (bs : List Byte) : (s.writeScr a bs).tagV = s.tagV := rfl
@[simp] theorem State.writeScr_tagSlot (a : Nat) (bs : List Byte) : (s.writeScr a bs).tagSlot = s.tagSlot := rfl
@[simp] theorem State.writeScr_dst (a : Nat) (bs : List Byte) : (s.writeScr a bs).dst = s.dst := rfl
@[simp] theorem State.writeScr_cand (a : Nat) (bs : List Byte) : (s.writeScr a bs).cand = s.cand := rfl
@[simp] theorem State.writeScr_cur (a : Nat) (bs : List Byte) : (s.writeScr a bs).cur = s.cur := rfl
@[simp] theorem State.writeScr_tried (a : Nat) (bs : List Byte) : (s.writeScr a bs).tried = s.tried := rfl
@[simp] theorem State.writeScr_flip (a : Nat) (bs : List Byte) : (s.writeScr a bs).flip = s.flip := rfl
@[simp] theorem State.writeScr_nrec (a : Nat) (bs : List Byte) : (s.writeScr a bs).nrec = s.nrec := rfl
@[simp] theorem State.writeScr_natt (a : Nat) (bs : List Byte) : (s.writeScr a bs).natt = s.natt := rfl
@[simp] theorem State.writeScr_nmatch (a : Nat) (bs : List Byte) : (s.writeScr a bs).nmatch = s.nmatch := rfl
@[simp] theorem State.writeScr_last (a : Nat) (bs : List Byte) : (s.writeScr a bs).last = s.last := rfl
@[simp] theorem State.writeScr_matchV (a : Nat) (bs : List Byte) : (s.writeScr a bs).matchV = s.matchV := rfl
@[simp] theorem State.writeScr_matchSlot (a : Nat) (bs : List Byte) : (s.writeScr a bs).matchSlot = s.matchSlot := rfl
@[simp] theorem State.writeScr_evt (a : Nat) (bs : List Byte) : (s.writeScr a bs).evt = s.evt := rfl
@[simp] theorem State.writeScr_epoch (a : Nat) (bs : List Byte) : (s.writeScr a bs).epoch = s.epoch := rfl
@[simp] theorem State.writeScr_requests (a : Nat) (bs : List Byte) : (s.writeScr a bs).requests = s.requests := rfl
@[simp] theorem State.writeScr_resp (a : Nat) (bs : List Byte) : (s.writeScr a bs).resp = s.resp := rfl

/-! `State.emptyRegistry`: The registry is emptied (R242, R247). -/

@[simp] theorem State.emptyRegistry_arg0 (r : RegState) : (s.emptyRegistry r).arg0 = s.arg0 := rfl
@[simp] theorem State.emptyRegistry_arg1 (r : RegState) : (s.emptyRegistry r).arg1 = s.arg1 := rfl
@[simp] theorem State.emptyRegistry_arg2 (r : RegState) : (s.emptyRegistry r).arg2 = s.arg2 := rfl
@[simp] theorem State.emptyRegistry_arg3 (r : RegState) : (s.emptyRegistry r).arg3 = s.arg3 := rfl
@[simp] theorem State.emptyRegistry_res0 (r : RegState) : (s.emptyRegistry r).res0 = s.res0 := rfl
@[simp] theorem State.emptyRegistry_res1 (r : RegState) : (s.emptyRegistry r).res1 = s.res1 := rfl
@[simp] theorem State.emptyRegistry_status (r : RegState) : (s.emptyRegistry r).status = s.status := rfl
@[simp] theorem State.emptyRegistry_lastCmd (r : RegState) : (s.emptyRegistry r).lastCmd = s.lastCmd := rfl
@[simp] theorem State.emptyRegistry_ie (r : RegState) : (s.emptyRegistry r).ie = s.ie := rfl
@[simp] theorem State.emptyRegistry_ptLen (r : RegState) : (s.emptyRegistry r).ptLen = s.ptLen := rfl
@[simp] theorem State.emptyRegistry_mem (r : RegState) : (s.emptyRegistry r).mem = s.mem := rfl
@[simp] theorem State.emptyRegistry_desc (r : RegState) : (s.emptyRegistry r).desc = s.desc := rfl
@[simp] theorem State.emptyRegistry_reg (r : RegState) : (s.emptyRegistry r).reg = [] := rfl
@[simp] theorem State.emptyRegistry_rst (r : RegState) : (s.emptyRegistry r).rst = r := rfl
@[simp] theorem State.emptyRegistry_bb0 (r : RegState) : (s.emptyRegistry r).bb0 = s.bb0 := rfl
@[simp] theorem State.emptyRegistry_bb1 (r : RegState) : (s.emptyRegistry r).bb1 = s.bb1 := rfl
@[simp] theorem State.emptyRegistry_tagV (r : RegState) : (s.emptyRegistry r).tagV = s.tagV := rfl
@[simp] theorem State.emptyRegistry_tagSlot (r : RegState) : (s.emptyRegistry r).tagSlot = s.tagSlot := rfl
@[simp] theorem State.emptyRegistry_dst (r : RegState) : (s.emptyRegistry r).dst = s.dst := rfl
@[simp] theorem State.emptyRegistry_cand (r : RegState) : (s.emptyRegistry r).cand = s.cand := rfl
@[simp] theorem State.emptyRegistry_cur (r : RegState) : (s.emptyRegistry r).cur = s.cur := rfl
@[simp] theorem State.emptyRegistry_tried (r : RegState) : (s.emptyRegistry r).tried = s.tried := rfl
@[simp] theorem State.emptyRegistry_flip (r : RegState) : (s.emptyRegistry r).flip = s.flip := rfl
@[simp] theorem State.emptyRegistry_nrec (r : RegState) : (s.emptyRegistry r).nrec = s.nrec := rfl
@[simp] theorem State.emptyRegistry_natt (r : RegState) : (s.emptyRegistry r).natt = s.natt := rfl
@[simp] theorem State.emptyRegistry_nmatch (r : RegState) : (s.emptyRegistry r).nmatch = s.nmatch := rfl
@[simp] theorem State.emptyRegistry_last (r : RegState) : (s.emptyRegistry r).last = s.last := rfl
@[simp] theorem State.emptyRegistry_matchV (r : RegState) : (s.emptyRegistry r).matchV = s.matchV := rfl
@[simp] theorem State.emptyRegistry_matchSlot (r : RegState) : (s.emptyRegistry r).matchSlot = s.matchSlot := rfl
@[simp] theorem State.emptyRegistry_evt (r : RegState) : (s.emptyRegistry r).evt = s.evt := rfl
@[simp] theorem State.emptyRegistry_epoch (r : RegState) : (s.emptyRegistry r).epoch = s.epoch := rfl
@[simp] theorem State.emptyRegistry_requests (r : RegState) : (s.emptyRegistry r).requests = s.requests := rfl
@[simp] theorem State.emptyRegistry_resp (r : RegState) : (s.emptyRegistry r).resp = s.resp := rfl

/-! `State.demodulate`: A demodulation (R200, R205). -/

@[simp] theorem State.demodulate_arg0 (c : Nat) : (s.demodulate c).arg0 = s.arg0 := rfl
@[simp] theorem State.demodulate_arg1 (c : Nat) : (s.demodulate c).arg1 = s.arg1 := rfl
@[simp] theorem State.demodulate_arg2 (c : Nat) : (s.demodulate c).arg2 = s.arg2 := rfl
@[simp] theorem State.demodulate_arg3 (c : Nat) : (s.demodulate c).arg3 = s.arg3 := rfl
@[simp] theorem State.demodulate_res0 (c : Nat) : (s.demodulate c).res0 = s.res0 := rfl
@[simp] theorem State.demodulate_res1 (c : Nat) : (s.demodulate c).res1 = s.res1 := rfl
@[simp] theorem State.demodulate_status (c : Nat) : (s.demodulate c).status = s.status := rfl
@[simp] theorem State.demodulate_lastCmd (c : Nat) : (s.demodulate c).lastCmd = s.lastCmd := rfl
@[simp] theorem State.demodulate_ie (c : Nat) : (s.demodulate c).ie = s.ie := rfl
@[simp] theorem State.demodulate_ptLen (c : Nat) : (s.demodulate c).ptLen = s.ptLen := rfl
@[simp] theorem State.demodulate_mem (c : Nat) : (s.demodulate c).mem = s.mem := rfl
@[simp] theorem State.demodulate_desc (c : Nat) : (s.demodulate c).desc = s.desc := rfl
@[simp] theorem State.demodulate_reg (c : Nat) : (s.demodulate c).reg = s.reg := rfl
@[simp] theorem State.demodulate_rst (c : Nat) : (s.demodulate c).rst = s.rst := rfl
@[simp] theorem State.demodulate_bb0 (c : Nat) : (s.demodulate c).bb0 = (demodTrain (s.slot c) s.train).buf := rfl
@[simp] theorem State.demodulate_bb1 (c : Nat) : (s.demodulate c).bb1 = s.bb1 := rfl
@[simp] theorem State.demodulate_tagV (c : Nat) : (s.demodulate c).tagV = true := rfl
@[simp] theorem State.demodulate_tagSlot (c : Nat) : (s.demodulate c).tagSlot = BitVec.ofNat 8 c := rfl
@[simp] theorem State.demodulate_dst (c : Nat) : (s.demodulate c).dst = s.dst := rfl
@[simp] theorem State.demodulate_cand (c : Nat) : (s.demodulate c).cand = s.cand := rfl
@[simp] theorem State.demodulate_cur (c : Nat) : (s.demodulate c).cur = s.cur := rfl
@[simp] theorem State.demodulate_tried (c : Nat) : (s.demodulate c).tried = s.tried := rfl
@[simp] theorem State.demodulate_flip (c : Nat) : (s.demodulate c).flip = s.flip := rfl
@[simp] theorem State.demodulate_nrec (c : Nat) : (s.demodulate c).nrec = s.nrec := rfl
@[simp] theorem State.demodulate_natt (c : Nat) : (s.demodulate c).natt = s.natt := rfl
@[simp] theorem State.demodulate_nmatch (c : Nat) : (s.demodulate c).nmatch = s.nmatch := rfl
@[simp] theorem State.demodulate_last (c : Nat) : (s.demodulate c).last = s.last := rfl
@[simp] theorem State.demodulate_matchV (c : Nat) : (s.demodulate c).matchV = s.matchV := rfl
@[simp] theorem State.demodulate_matchSlot (c : Nat) : (s.demodulate c).matchSlot = s.matchSlot := rfl
@[simp] theorem State.demodulate_evt (c : Nat) : (s.demodulate c).evt = s.evt := rfl
@[simp] theorem State.demodulate_epoch (c : Nat) : (s.demodulate c).epoch = s.epoch := rfl
@[simp] theorem State.demodulate_requests (c : Nat) : (s.demodulate c).requests = s.requests := rfl
@[simp] theorem State.demodulate_resp (c : Nat) : (s.demodulate c).resp = s.resp := rfl

/-! `State.tryCandidate`: A candidate is demodulated (R258). -/

@[simp] theorem State.tryCandidate_arg0 (c : Nat) : (s.tryCandidate c).arg0 = s.arg0 := rfl
@[simp] theorem State.tryCandidate_arg1 (c : Nat) : (s.tryCandidate c).arg1 = s.arg1 := rfl
@[simp] theorem State.tryCandidate_arg2 (c : Nat) : (s.tryCandidate c).arg2 = s.arg2 := rfl
@[simp] theorem State.tryCandidate_arg3 (c : Nat) : (s.tryCandidate c).arg3 = s.arg3 := rfl
@[simp] theorem State.tryCandidate_res0 (c : Nat) : (s.tryCandidate c).res0 = s.res0 := rfl
@[simp] theorem State.tryCandidate_res1 (c : Nat) : (s.tryCandidate c).res1 = s.res1 := rfl
@[simp] theorem State.tryCandidate_status (c : Nat) : (s.tryCandidate c).status = s.status := rfl
@[simp] theorem State.tryCandidate_lastCmd (c : Nat) : (s.tryCandidate c).lastCmd = s.lastCmd := rfl
@[simp] theorem State.tryCandidate_ie (c : Nat) : (s.tryCandidate c).ie = s.ie := rfl
@[simp] theorem State.tryCandidate_ptLen (c : Nat) : (s.tryCandidate c).ptLen = s.ptLen := rfl
@[simp] theorem State.tryCandidate_mem (c : Nat) : (s.tryCandidate c).mem = s.mem := rfl
@[simp] theorem State.tryCandidate_desc (c : Nat) : (s.tryCandidate c).desc = s.desc := rfl
@[simp] theorem State.tryCandidate_reg (c : Nat) : (s.tryCandidate c).reg = s.reg := rfl
@[simp] theorem State.tryCandidate_rst (c : Nat) : (s.tryCandidate c).rst = s.rst := rfl
@[simp] theorem State.tryCandidate_bb0 (c : Nat) : (s.tryCandidate c).bb0 = (demodTrain (s.slot c) s.train).buf := rfl
@[simp] theorem State.tryCandidate_bb1 (c : Nat) : (s.tryCandidate c).bb1 = s.bb1 := rfl
@[simp] theorem State.tryCandidate_tagV (c : Nat) : (s.tryCandidate c).tagV = true := rfl
@[simp] theorem State.tryCandidate_tagSlot (c : Nat) : (s.tryCandidate c).tagSlot = BitVec.ofNat 8 c := rfl
@[simp] theorem State.tryCandidate_dst (c : Nat) : (s.tryCandidate c).dst = s.dst := rfl
@[simp] theorem State.tryCandidate_cand (c : Nat) : (s.tryCandidate c).cand = BitVec.ofNat 8 c := rfl
@[simp] theorem State.tryCandidate_cur (c : Nat) : (s.tryCandidate c).cur = s.cur := rfl
@[simp] theorem State.tryCandidate_tried (c : Nat) : (s.tryCandidate c).tried = s.tried := rfl
@[simp] theorem State.tryCandidate_flip (c : Nat) : (s.tryCandidate c).flip = s.flip := rfl
@[simp] theorem State.tryCandidate_nrec (c : Nat) : (s.tryCandidate c).nrec = s.nrec := rfl
@[simp] theorem State.tryCandidate_natt (c : Nat) : (s.tryCandidate c).natt = s.natt := rfl
@[simp] theorem State.tryCandidate_nmatch (c : Nat) : (s.tryCandidate c).nmatch = s.nmatch := rfl
@[simp] theorem State.tryCandidate_last (c : Nat) : (s.tryCandidate c).last = s.last := rfl
@[simp] theorem State.tryCandidate_matchV (c : Nat) : (s.tryCandidate c).matchV = s.matchV := rfl
@[simp] theorem State.tryCandidate_matchSlot (c : Nat) : (s.tryCandidate c).matchSlot = s.matchSlot := rfl
@[simp] theorem State.tryCandidate_evt (c : Nat) : (s.tryCandidate c).evt = s.evt := rfl
@[simp] theorem State.tryCandidate_epoch (c : Nat) : (s.tryCandidate c).epoch = s.epoch := rfl
@[simp] theorem State.tryCandidate_requests (c : Nat) : (s.tryCandidate c).requests = s.requests := rfl
@[simp] theorem State.tryCandidate_resp (c : Nat) : (s.tryCandidate c).resp = s.resp := rfl

/-! `State.invoke`: A decoder is selected (R259). -/

@[simp] theorem State.invoke_arg0 (d : Nat) : (s.invoke d).arg0 = s.arg0 := rfl
@[simp] theorem State.invoke_arg1 (d : Nat) : (s.invoke d).arg1 = s.arg1 := rfl
@[simp] theorem State.invoke_arg2 (d : Nat) : (s.invoke d).arg2 = s.arg2 := rfl
@[simp] theorem State.invoke_arg3 (d : Nat) : (s.invoke d).arg3 = s.arg3 := rfl
@[simp] theorem State.invoke_res0 (d : Nat) : (s.invoke d).res0 = s.res0 := rfl
@[simp] theorem State.invoke_res1 (d : Nat) : (s.invoke d).res1 = s.res1 := rfl
@[simp] theorem State.invoke_status (d : Nat) : (s.invoke d).status = s.status := rfl
@[simp] theorem State.invoke_lastCmd (d : Nat) : (s.invoke d).lastCmd = s.lastCmd := rfl
@[simp] theorem State.invoke_ie (d : Nat) : (s.invoke d).ie = s.ie := rfl
@[simp] theorem State.invoke_ptLen (d : Nat) : (s.invoke d).ptLen = s.ptLen := rfl
@[simp] theorem State.invoke_mem (d : Nat) : (s.invoke d).mem = s.mem := rfl
@[simp] theorem State.invoke_desc (d : Nat) : (s.invoke d).desc = s.desc := rfl
@[simp] theorem State.invoke_reg (d : Nat) : (s.invoke d).reg = s.reg := rfl
@[simp] theorem State.invoke_rst (d : Nat) : (s.invoke d).rst = s.rst := rfl
@[simp] theorem State.invoke_bb0 (d : Nat) : (s.invoke d).bb0 = s.bb0 := rfl
@[simp] theorem State.invoke_bb1 (d : Nat) : (s.invoke d).bb1 = BitBuf.empty := rfl
@[simp] theorem State.invoke_tagV (d : Nat) : (s.invoke d).tagV = s.tagV := rfl
@[simp] theorem State.invoke_tagSlot (d : Nat) : (s.invoke d).tagSlot = s.tagSlot := rfl
@[simp] theorem State.invoke_dst (d : Nat) : (s.invoke d).dst = .waitDecode := rfl
@[simp] theorem State.invoke_cand (d : Nat) : (s.invoke d).cand = s.cand := rfl
@[simp] theorem State.invoke_cur (d : Nat) : (s.invoke d).cur = BitVec.ofNat 8 d := rfl
@[simp] theorem State.invoke_tried (d : Nat) : (s.invoke d).tried = setTried s.tried d := rfl
@[simp] theorem State.invoke_flip (d : Nat) : (s.invoke d).flip = false := rfl
@[simp] theorem State.invoke_nrec (d : Nat) : (s.invoke d).nrec = s.nrec := rfl
@[simp] theorem State.invoke_natt (d : Nat) : (s.invoke d).natt = s.natt := rfl
@[simp] theorem State.invoke_nmatch (d : Nat) : (s.invoke d).nmatch = s.nmatch := rfl
@[simp] theorem State.invoke_last (d : Nat) : (s.invoke d).last = s.last := rfl
@[simp] theorem State.invoke_matchV (d : Nat) : (s.invoke d).matchV = s.matchV := rfl
@[simp] theorem State.invoke_matchSlot (d : Nat) : (s.invoke d).matchSlot = s.matchSlot := rfl
@[simp] theorem State.invoke_evt (d : Nat) : (s.invoke d).evt = s.evt := rfl
@[simp] theorem State.invoke_epoch (d : Nat) : (s.invoke d).epoch = s.epoch := rfl
@[simp] theorem State.invoke_requests (d : Nat) : (s.invoke d).requests = s.requests := rfl
@[simp] theorem State.invoke_resp (d : Nat) : (s.invoke d).resp = s.resp := rfl

/-! `State.clearDispatch`: What `DSP_START` clears (R260). -/

@[simp] theorem State.clearDispatch_arg0 : (s.clearDispatch).arg0 = s.arg0 := rfl
@[simp] theorem State.clearDispatch_arg1 : (s.clearDispatch).arg1 = s.arg1 := rfl
@[simp] theorem State.clearDispatch_arg2 : (s.clearDispatch).arg2 = s.arg2 := rfl
@[simp] theorem State.clearDispatch_arg3 : (s.clearDispatch).arg3 = s.arg3 := rfl
@[simp] theorem State.clearDispatch_res0 : (s.clearDispatch).res0 = s.res0 := rfl
@[simp] theorem State.clearDispatch_res1 : (s.clearDispatch).res1 = s.res1 := rfl
@[simp] theorem State.clearDispatch_status : (s.clearDispatch).status = s.status := rfl
@[simp] theorem State.clearDispatch_lastCmd : (s.clearDispatch).lastCmd = s.lastCmd := rfl
@[simp] theorem State.clearDispatch_ie : (s.clearDispatch).ie = s.ie := rfl
@[simp] theorem State.clearDispatch_ptLen : (s.clearDispatch).ptLen = s.ptLen := rfl
@[simp] theorem State.clearDispatch_mem : (s.clearDispatch).mem = s.mem := rfl
@[simp] theorem State.clearDispatch_desc : (s.clearDispatch).desc = s.desc := rfl
@[simp] theorem State.clearDispatch_reg : (s.clearDispatch).reg = s.reg := rfl
@[simp] theorem State.clearDispatch_rst : (s.clearDispatch).rst = s.rst := rfl
@[simp] theorem State.clearDispatch_bb0 : (s.clearDispatch).bb0 = s.bb0 := rfl
@[simp] theorem State.clearDispatch_bb1 : (s.clearDispatch).bb1 = s.bb1 := rfl
@[simp] theorem State.clearDispatch_tagV : (s.clearDispatch).tagV = s.tagV := rfl
@[simp] theorem State.clearDispatch_tagSlot : (s.clearDispatch).tagSlot = s.tagSlot := rfl
@[simp] theorem State.clearDispatch_dst : (s.clearDispatch).dst = s.dst := rfl
@[simp] theorem State.clearDispatch_cand : (s.clearDispatch).cand = s.cand := rfl
@[simp] theorem State.clearDispatch_cur : (s.clearDispatch).cur = s.cur := rfl
@[simp] theorem State.clearDispatch_tried : (s.clearDispatch).tried = 0 := rfl
@[simp] theorem State.clearDispatch_flip : (s.clearDispatch).flip = false := rfl
@[simp] theorem State.clearDispatch_nrec : (s.clearDispatch).nrec = 0 := rfl
@[simp] theorem State.clearDispatch_natt : (s.clearDispatch).natt = 0 := rfl
@[simp] theorem State.clearDispatch_nmatch : (s.clearDispatch).nmatch = 0 := rfl
@[simp] theorem State.clearDispatch_last : (s.clearDispatch).last = 0 := rfl
@[simp] theorem State.clearDispatch_matchV : (s.clearDispatch).matchV = false := rfl
@[simp] theorem State.clearDispatch_matchSlot : (s.clearDispatch).matchSlot = 0 := rfl
@[simp] theorem State.clearDispatch_evt : (s.clearDispatch).evt = s.evt := rfl
@[simp] theorem State.clearDispatch_epoch : (s.clearDispatch).epoch = s.epoch := rfl
@[simp] theorem State.clearDispatch_requests : (s.clearDispatch).requests = s.requests := rfl
@[simp] theorem State.clearDispatch_resp : (s.clearDispatch).resp = s.resp := rfl

/-! `State.unflip`: `BB0` is restored (R263). -/

@[simp] theorem State.unflip_arg0 : (s.unflip).arg0 = s.arg0 := rfl
@[simp] theorem State.unflip_arg1 : (s.unflip).arg1 = s.arg1 := rfl
@[simp] theorem State.unflip_arg2 : (s.unflip).arg2 = s.arg2 := rfl
@[simp] theorem State.unflip_arg3 : (s.unflip).arg3 = s.arg3 := rfl
@[simp] theorem State.unflip_res0 : (s.unflip).res0 = s.res0 := rfl
@[simp] theorem State.unflip_res1 : (s.unflip).res1 = s.res1 := rfl
@[simp] theorem State.unflip_status : (s.unflip).status = s.status := rfl
@[simp] theorem State.unflip_lastCmd : (s.unflip).lastCmd = s.lastCmd := rfl
@[simp] theorem State.unflip_ie : (s.unflip).ie = s.ie := rfl
@[simp] theorem State.unflip_ptLen : (s.unflip).ptLen = s.ptLen := rfl
@[simp] theorem State.unflip_mem : (s.unflip).mem = s.mem := rfl
@[simp] theorem State.unflip_desc : (s.unflip).desc = s.desc := rfl
@[simp] theorem State.unflip_reg : (s.unflip).reg = s.reg := rfl
@[simp] theorem State.unflip_rst : (s.unflip).rst = s.rst := rfl
@[simp] theorem State.unflip_bb0 : (s.unflip).bb0 = if s.flip then s.bb0.invert else s.bb0 := rfl
@[simp] theorem State.unflip_bb1 : (s.unflip).bb1 = s.bb1 := rfl
@[simp] theorem State.unflip_tagV : (s.unflip).tagV = s.tagV := rfl
@[simp] theorem State.unflip_tagSlot : (s.unflip).tagSlot = s.tagSlot := rfl
@[simp] theorem State.unflip_dst : (s.unflip).dst = s.dst := rfl
@[simp] theorem State.unflip_cand : (s.unflip).cand = s.cand := rfl
@[simp] theorem State.unflip_cur : (s.unflip).cur = s.cur := rfl
@[simp] theorem State.unflip_tried : (s.unflip).tried = s.tried := rfl
@[simp] theorem State.unflip_flip : (s.unflip).flip = false := rfl
@[simp] theorem State.unflip_nrec : (s.unflip).nrec = s.nrec := rfl
@[simp] theorem State.unflip_natt : (s.unflip).natt = s.natt := rfl
@[simp] theorem State.unflip_nmatch : (s.unflip).nmatch = s.nmatch := rfl
@[simp] theorem State.unflip_last : (s.unflip).last = s.last := rfl
@[simp] theorem State.unflip_matchV : (s.unflip).matchV = s.matchV := rfl
@[simp] theorem State.unflip_matchSlot : (s.unflip).matchSlot = s.matchSlot := rfl
@[simp] theorem State.unflip_evt : (s.unflip).evt = s.evt := rfl
@[simp] theorem State.unflip_epoch : (s.unflip).epoch = s.epoch := rfl
@[simp] theorem State.unflip_requests : (s.unflip).requests = s.requests := rfl
@[simp] theorem State.unflip_resp : (s.unflip).resp = s.resp := rfl

/-! `State.recordOutcome`: A return is recorded (R263). -/

@[simp] theorem State.recordOutcome_arg0 (v : Word) : (s.recordOutcome v).arg0 = s.arg0 := rfl
@[simp] theorem State.recordOutcome_arg1 (v : Word) : (s.recordOutcome v).arg1 = s.arg1 := rfl
@[simp] theorem State.recordOutcome_arg2 (v : Word) : (s.recordOutcome v).arg2 = s.arg2 := rfl
@[simp] theorem State.recordOutcome_arg3 (v : Word) : (s.recordOutcome v).arg3 = s.arg3 := rfl
@[simp] theorem State.recordOutcome_res0 (v : Word) : (s.recordOutcome v).res0 = s.res0 := rfl
@[simp] theorem State.recordOutcome_res1 (v : Word) : (s.recordOutcome v).res1 = s.res1 := rfl
@[simp] theorem State.recordOutcome_status (v : Word) : (s.recordOutcome v).status = s.status := rfl
@[simp] theorem State.recordOutcome_lastCmd (v : Word) : (s.recordOutcome v).lastCmd = s.lastCmd := rfl
@[simp] theorem State.recordOutcome_ie (v : Word) : (s.recordOutcome v).ie = s.ie := rfl
@[simp] theorem State.recordOutcome_ptLen (v : Word) : (s.recordOutcome v).ptLen = s.ptLen := rfl
@[simp] theorem State.recordOutcome_mem (v : Word) : (s.recordOutcome v).mem = s.mem := rfl
@[simp] theorem State.recordOutcome_desc (v : Word) : (s.recordOutcome v).desc = s.desc := rfl
@[simp] theorem State.recordOutcome_reg (v : Word) : (s.recordOutcome v).reg = s.reg := rfl
@[simp] theorem State.recordOutcome_rst (v : Word) : (s.recordOutcome v).rst = s.rst := rfl
@[simp] theorem State.recordOutcome_bb0 (v : Word) : (s.recordOutcome v).bb0 = s.bb0 := rfl
@[simp] theorem State.recordOutcome_bb1 (v : Word) : (s.recordOutcome v).bb1 = s.bb1 := rfl
@[simp] theorem State.recordOutcome_tagV (v : Word) : (s.recordOutcome v).tagV = s.tagV := rfl
@[simp] theorem State.recordOutcome_tagSlot (v : Word) : (s.recordOutcome v).tagSlot = s.tagSlot := rfl
@[simp] theorem State.recordOutcome_dst (v : Word) : (s.recordOutcome v).dst = s.dst := rfl
@[simp] theorem State.recordOutcome_cand (v : Word) : (s.recordOutcome v).cand = s.cand := rfl
@[simp] theorem State.recordOutcome_cur (v : Word) : (s.recordOutcome v).cur = s.cur := rfl
@[simp] theorem State.recordOutcome_tried (v : Word) : (s.recordOutcome v).tried = s.tried := rfl
@[simp] theorem State.recordOutcome_flip (v : Word) : (s.recordOutcome v).flip = s.flip := rfl
@[simp] theorem State.recordOutcome_nrec (v : Word) : (s.recordOutcome v).nrec = s.nrec := rfl
@[simp] theorem State.recordOutcome_natt (v : Word) : (s.recordOutcome v).natt = s.natt + 1 := rfl
@[simp] theorem State.recordOutcome_nmatch (v : Word) : (s.recordOutcome v).nmatch = s.nmatch := rfl
@[simp] theorem State.recordOutcome_last (v : Word) : (s.recordOutcome v).last = v := rfl
@[simp] theorem State.recordOutcome_matchV (v : Word) : (s.recordOutcome v).matchV = s.matchV := rfl
@[simp] theorem State.recordOutcome_matchSlot (v : Word) : (s.recordOutcome v).matchSlot = s.matchSlot := rfl
@[simp] theorem State.recordOutcome_evt (v : Word) :
    (s.recordOutcome v).evt = s.evt ++ [{ cand := s.cand, cur := s.cur, outcome := v, level := eventLevel v }] := rfl
@[simp] theorem State.recordOutcome_epoch (v : Word) : (s.recordOutcome v).epoch = s.epoch := rfl
@[simp] theorem State.recordOutcome_requests (v : Word) : (s.recordOutcome v).requests = s.requests := rfl
@[simp] theorem State.recordOutcome_resp (v : Word) : (s.recordOutcome v).resp = s.resp := rfl

/-! `State.answer`: The bus answers. -/

@[simp] theorem State.answer_arg0 (r : Response) : (s.answer r).arg0 = s.arg0 := rfl
@[simp] theorem State.answer_arg1 (r : Response) : (s.answer r).arg1 = s.arg1 := rfl
@[simp] theorem State.answer_arg2 (r : Response) : (s.answer r).arg2 = s.arg2 := rfl
@[simp] theorem State.answer_arg3 (r : Response) : (s.answer r).arg3 = s.arg3 := rfl
@[simp] theorem State.answer_res0 (r : Response) : (s.answer r).res0 = s.res0 := rfl
@[simp] theorem State.answer_res1 (r : Response) : (s.answer r).res1 = s.res1 := rfl
@[simp] theorem State.answer_status (r : Response) : (s.answer r).status = s.status := rfl
@[simp] theorem State.answer_lastCmd (r : Response) : (s.answer r).lastCmd = s.lastCmd := rfl
@[simp] theorem State.answer_ie (r : Response) : (s.answer r).ie = s.ie := rfl
@[simp] theorem State.answer_ptLen (r : Response) : (s.answer r).ptLen = s.ptLen := rfl
@[simp] theorem State.answer_mem (r : Response) : (s.answer r).mem = s.mem := rfl
@[simp] theorem State.answer_desc (r : Response) : (s.answer r).desc = s.desc := rfl
@[simp] theorem State.answer_reg (r : Response) : (s.answer r).reg = s.reg := rfl
@[simp] theorem State.answer_rst (r : Response) : (s.answer r).rst = s.rst := rfl
@[simp] theorem State.answer_bb0 (r : Response) : (s.answer r).bb0 = s.bb0 := rfl
@[simp] theorem State.answer_bb1 (r : Response) : (s.answer r).bb1 = s.bb1 := rfl
@[simp] theorem State.answer_tagV (r : Response) : (s.answer r).tagV = s.tagV := rfl
@[simp] theorem State.answer_tagSlot (r : Response) : (s.answer r).tagSlot = s.tagSlot := rfl
@[simp] theorem State.answer_dst (r : Response) : (s.answer r).dst = s.dst := rfl
@[simp] theorem State.answer_cand (r : Response) : (s.answer r).cand = s.cand := rfl
@[simp] theorem State.answer_cur (r : Response) : (s.answer r).cur = s.cur := rfl
@[simp] theorem State.answer_tried (r : Response) : (s.answer r).tried = s.tried := rfl
@[simp] theorem State.answer_flip (r : Response) : (s.answer r).flip = s.flip := rfl
@[simp] theorem State.answer_nrec (r : Response) : (s.answer r).nrec = s.nrec := rfl
@[simp] theorem State.answer_natt (r : Response) : (s.answer r).natt = s.natt := rfl
@[simp] theorem State.answer_nmatch (r : Response) : (s.answer r).nmatch = s.nmatch := rfl
@[simp] theorem State.answer_last (r : Response) : (s.answer r).last = s.last := rfl
@[simp] theorem State.answer_matchV (r : Response) : (s.answer r).matchV = s.matchV := rfl
@[simp] theorem State.answer_matchSlot (r : Response) : (s.answer r).matchSlot = s.matchSlot := rfl
@[simp] theorem State.answer_evt (r : Response) : (s.answer r).evt = s.evt := rfl
@[simp] theorem State.answer_epoch (r : Response) : (s.answer r).epoch = s.epoch := rfl
@[simp] theorem State.answer_requests (r : Response) : (s.answer r).requests = s.requests := rfl
@[simp] theorem State.answer_resp (r : Response) : (s.answer r).resp = r := rfl

/-! `State.markTried` and `State.recordSuccess` (R258, R263). -/

@[simp] theorem State.markTried_arg0 (x : Nat → Bool) : (s.markTried x).arg0 = s.arg0 := rfl
@[simp] theorem State.markTried_arg1 (x : Nat → Bool) : (s.markTried x).arg1 = s.arg1 := rfl
@[simp] theorem State.markTried_arg2 (x : Nat → Bool) : (s.markTried x).arg2 = s.arg2 := rfl
@[simp] theorem State.markTried_arg3 (x : Nat → Bool) : (s.markTried x).arg3 = s.arg3 := rfl
@[simp] theorem State.markTried_res0 (x : Nat → Bool) : (s.markTried x).res0 = s.res0 := rfl
@[simp] theorem State.markTried_res1 (x : Nat → Bool) : (s.markTried x).res1 = s.res1 := rfl
@[simp] theorem State.markTried_status (x : Nat → Bool) : (s.markTried x).status = s.status := rfl
@[simp] theorem State.markTried_lastCmd (x : Nat → Bool) : (s.markTried x).lastCmd = s.lastCmd := rfl
@[simp] theorem State.markTried_ie (x : Nat → Bool) : (s.markTried x).ie = s.ie := rfl
@[simp] theorem State.markTried_ptLen (x : Nat → Bool) : (s.markTried x).ptLen = s.ptLen := rfl
@[simp] theorem State.markTried_mem (x : Nat → Bool) : (s.markTried x).mem = s.mem := rfl
@[simp] theorem State.markTried_desc (x : Nat → Bool) : (s.markTried x).desc = s.desc := rfl
@[simp] theorem State.markTried_reg (x : Nat → Bool) : (s.markTried x).reg = s.reg := rfl
@[simp] theorem State.markTried_rst (x : Nat → Bool) : (s.markTried x).rst = s.rst := rfl
@[simp] theorem State.markTried_bb0 (x : Nat → Bool) : (s.markTried x).bb0 = s.bb0 := rfl
@[simp] theorem State.markTried_bb1 (x : Nat → Bool) : (s.markTried x).bb1 = s.bb1 := rfl
@[simp] theorem State.markTried_tagV (x : Nat → Bool) : (s.markTried x).tagV = s.tagV := rfl
@[simp] theorem State.markTried_tagSlot (x : Nat → Bool) : (s.markTried x).tagSlot = s.tagSlot := rfl
@[simp] theorem State.markTried_dst (x : Nat → Bool) : (s.markTried x).dst = s.dst := rfl
@[simp] theorem State.markTried_cand (x : Nat → Bool) : (s.markTried x).cand = s.cand := rfl
@[simp] theorem State.markTried_cur (x : Nat → Bool) : (s.markTried x).cur = s.cur := rfl
@[simp] theorem State.markTried_flip (x : Nat → Bool) : (s.markTried x).flip = s.flip := rfl
@[simp] theorem State.markTried_nrec (x : Nat → Bool) : (s.markTried x).nrec = s.nrec := rfl
@[simp] theorem State.markTried_natt (x : Nat → Bool) : (s.markTried x).natt = s.natt := rfl
@[simp] theorem State.markTried_nmatch (x : Nat → Bool) : (s.markTried x).nmatch = s.nmatch := rfl
@[simp] theorem State.markTried_last (x : Nat → Bool) : (s.markTried x).last = s.last := rfl
@[simp] theorem State.markTried_matchV (x : Nat → Bool) : (s.markTried x).matchV = s.matchV := rfl
@[simp] theorem State.markTried_matchSlot (x : Nat → Bool) : (s.markTried x).matchSlot = s.matchSlot := rfl
@[simp] theorem State.markTried_evt (x : Nat → Bool) : (s.markTried x).evt = s.evt := rfl
@[simp] theorem State.markTried_epoch (x : Nat → Bool) : (s.markTried x).epoch = s.epoch := rfl
@[simp] theorem State.markTried_requests (x : Nat → Bool) : (s.markTried x).requests = s.requests := rfl
@[simp] theorem State.markTried_resp (x : Nat → Bool) : (s.markTried x).resp = s.resp := rfl

@[simp] theorem State.recordSuccess_arg0 (v : Word) :
    (s.recordSuccess v).arg0 = s.arg0 := rfl
@[simp] theorem State.recordSuccess_arg1 (v : Word) :
    (s.recordSuccess v).arg1 = s.arg1 := rfl
@[simp] theorem State.recordSuccess_arg2 (v : Word) :
    (s.recordSuccess v).arg2 = s.arg2 := rfl
@[simp] theorem State.recordSuccess_arg3 (v : Word) :
    (s.recordSuccess v).arg3 = s.arg3 := rfl
@[simp] theorem State.recordSuccess_res0 (v : Word) :
    (s.recordSuccess v).res0 = s.res0 := rfl
@[simp] theorem State.recordSuccess_res1 (v : Word) :
    (s.recordSuccess v).res1 = s.res1 := rfl
@[simp] theorem State.recordSuccess_status (v : Word) :
    (s.recordSuccess v).status = s.status := rfl
@[simp] theorem State.recordSuccess_lastCmd (v : Word) :
    (s.recordSuccess v).lastCmd = s.lastCmd := rfl
@[simp] theorem State.recordSuccess_ie (v : Word) :
    (s.recordSuccess v).ie = s.ie := rfl
@[simp] theorem State.recordSuccess_ptLen (v : Word) :
    (s.recordSuccess v).ptLen = s.ptLen := rfl
@[simp] theorem State.recordSuccess_mem (v : Word) :
    (s.recordSuccess v).mem = s.mem := rfl
@[simp] theorem State.recordSuccess_desc (v : Word) :
    (s.recordSuccess v).desc = s.desc := rfl
@[simp] theorem State.recordSuccess_reg (v : Word) :
    (s.recordSuccess v).reg = s.reg := rfl
@[simp] theorem State.recordSuccess_rst (v : Word) :
    (s.recordSuccess v).rst = s.rst := rfl
@[simp] theorem State.recordSuccess_bb0 (v : Word) :
    (s.recordSuccess v).bb0 = s.bb0 := rfl
@[simp] theorem State.recordSuccess_bb1 (v : Word) :
    (s.recordSuccess v).bb1 = s.bb1 := rfl
@[simp] theorem State.recordSuccess_tagV (v : Word) :
    (s.recordSuccess v).tagV = s.tagV := rfl
@[simp] theorem State.recordSuccess_tagSlot (v : Word) :
    (s.recordSuccess v).tagSlot = s.tagSlot := rfl
@[simp] theorem State.recordSuccess_dst (v : Word) :
    (s.recordSuccess v).dst = s.dst := rfl
@[simp] theorem State.recordSuccess_cand (v : Word) :
    (s.recordSuccess v).cand = s.cand := rfl
@[simp] theorem State.recordSuccess_cur (v : Word) :
    (s.recordSuccess v).cur = s.cur := rfl
@[simp] theorem State.recordSuccess_flip (v : Word) :
    (s.recordSuccess v).flip = s.flip := rfl
@[simp] theorem State.recordSuccess_nrec (v : Word) :
    (s.recordSuccess v).nrec = s.nrec + v := rfl
@[simp] theorem State.recordSuccess_natt (v : Word) :
    (s.recordSuccess v).natt = s.natt := rfl
@[simp] theorem State.recordSuccess_nmatch (v : Word) :
    (s.recordSuccess v).nmatch = s.nmatch + 1 := rfl
@[simp] theorem State.recordSuccess_last (v : Word) :
    (s.recordSuccess v).last = s.last := rfl
@[simp] theorem State.recordSuccess_matchV (v : Word) :
    (s.recordSuccess v).matchV = true := rfl
@[simp] theorem State.recordSuccess_matchSlot (v : Word) :
    (s.recordSuccess v).matchSlot = if s.matchV then s.matchSlot else s.cur := rfl
@[simp] theorem State.recordSuccess_evt (v : Word) :
    (s.recordSuccess v).evt = s.evt := rfl
@[simp] theorem State.recordSuccess_epoch (v : Word) :
    (s.recordSuccess v).epoch = s.epoch := rfl
@[simp] theorem State.recordSuccess_requests (v : Word) :
    (s.recordSuccess v).requests = s.requests := rfl
@[simp] theorem State.recordSuccess_resp (v : Word) :
    (s.recordSuccess v).resp = s.resp := rfl

/-! Reading back a selected buffer. -/

@[simp] theorem State.buf_bb0 : s.buf .bb0 = s.bb0 := rfl
@[simp] theorem State.buf_bb1 : s.buf .bb1 = s.bb1 := rfl

@[simp] theorem State.buf_setBuf_same (b : Buf) (v : BitBuf) : (s.setBuf b v).buf b = v := by cases b <;> rfl

theorem State.buf_setBuf_other (b c : Buf) (v : BitBuf) (h : c ≠ b) : (s.setBuf b v).buf c = s.buf c := by
  cases b <;> cases c <;> first | rfl | exact absurd rfl h

@[simp] theorem State.setBuf_buf (b : Buf) : s.setBuf b (s.buf b) = s := by cases b <;> rfl

end Sys2Proof.Machine
end

