-- ==== Sys2Proof/Laws/BitBuf.lean ====
section
/-!
SUPPORT. The laws of bit buffers: what each primitive of 41_bitbuffer_store.md R151 to R154 and R162 does, once, and that each
keeps a buffer within capacity.
-/

namespace Sys2Proof.Machine

/-! ## Changing the last row -/

@[simp] theorem onLast_append (f : List Bool → List Bool) (init : List (List Bool)) (row : List Bool) :
    onLast f (init ++ [row]) = init ++ [f row] := by
  induction init with
  | nil => rfl
  | cons a l ih =>
    cases l with
    | nil => rfl
    | cons b l => simp only [List.cons_append, onLast, List.cons.injEq, true_and]; exact ih

@[simp] theorem length_onLast (f : List Bool → List Bool) : ∀ rows : List (List Bool), (onLast f rows).length = rows.length
  | [] => rfl
  | [_] => rfl
  | _ :: b :: l => by simp only [onLast, List.length_cons, length_onLast f (b :: l)]

theorem rowAppend_of_full (v : Bool) (row : List Bool) (h : row.length = Config.rowCapBits) : rowAppend v row = row :=
  if_pos h

theorem rowAppend_of_room (v : Bool) (row : List Bool) (h : row.length ≠ Config.rowCapBits) :
    rowAppend v row = row ++ [v] := if_neg h

/-! ## `AddRow` (R153) -/

theorem BitBuf.addRow_of_ovf (b : BitBuf) (h : b.ovf = true) : b.addRow = b := by simp [BitBuf.addRow, h]

theorem BitBuf.addRow_of_full (b : BitBuf) (h : b.ovf = false) (hn : b.rows.length = Config.maxRows) :
    b.addRow = { rows := b.rows, ovf := true } := by simp [BitBuf.addRow, h, BitBuf.nrows, hn]

theorem BitBuf.addRow_of_room (b : BitBuf) (h : b.ovf = false) (hn : b.rows.length ≠ Config.maxRows) :
    b.addRow = { rows := b.rows ++ [[]], ovf := false } := by
  cases b
  simp_all [BitBuf.addRow, BitBuf.nrows]

/-! ## `AddBit` (R154) -/

theorem BitBuf.addBit_of_ovf (b : BitBuf) (v : Bool) (h : b.ovf = true) : b.addBit v = b := by simp [BitBuf.addBit, h]

theorem BitBuf.addBit_of_empty (b : BitBuf) (v : Bool) (h : b.ovf = false) (hr : b.rows = []) :
    b.addBit v = { rows := [[v]], ovf := false } := by
  cases b
  simp_all [BitBuf.addBit, BitBuf.nrows, BitBuf.addRow, onLast, rowAppend]

theorem BitBuf.addBit_of_rows (b : BitBuf) (v : Bool) (init : List (List Bool)) (row : List Bool) (h : b.ovf = false)
    (hr : b.rows = init ++ [row]) : b.addBit v = { rows := init ++ [rowAppend v row], ovf := false } := by
  cases b
  simp_all [BitBuf.addBit, BitBuf.nrows]

/-- A buffer has no rows, or earlier rows and a current one. -/
theorem BitBuf.rows_cases (b : BitBuf) : b.rows = [] ∨ ∃ init row, b.rows = init ++ [row] := by
  rcases List.eq_nil_or_concat b.rows with h | ⟨init, row, h⟩
  · exact .inl h
  · exact .inr ⟨init, row, by simpa using h⟩

/-! ## A list of bits (R158) -/

@[simp] theorem BitBuf.addBits_nil (b : BitBuf) : b.addBits [] = b := rfl

@[simp] theorem BitBuf.addBits_cons (b : BitBuf) (v : Bool) (vs : List Bool) :
    b.addBits (v :: vs) = (b.addBit v).addBits vs := rfl

theorem BitBuf.addBits_append (b : BitBuf) (vs ws : List Bool) : b.addBits (vs ++ ws) = (b.addBits vs).addBits ws := by
  simp [BitBuf.addBits]

theorem BitBuf.addBits_of_ovf (b : BitBuf) (vs : List Bool) (h : b.ovf = true) : b.addBits vs = b := by
  induction vs with
  | nil => rfl
  | cons v vs ih => rw [BitBuf.addBits_cons, BitBuf.addBit_of_ovf b v h, ih]

/-- Bits appended to a current row within capacity: as many as there is room for. -/
theorem BitBuf.addBits_of_rows (vs : List Bool) : ∀ (b : BitBuf) (init : List (List Bool)) (row : List Bool),
    b.ovf = false → b.rows = init ++ [row] → row.length ≤ Config.rowCapBits →
    b.addBits vs = { rows := init ++ [row ++ vs.take (Config.rowCapBits - row.length)], ovf := false } := by
  induction vs with
  | nil => intro b init row h hr _; cases b; simp_all
  | cons v vs ih =>
    intro b init row h hr hl
    rw [BitBuf.addBits_cons, BitBuf.addBit_of_rows b v init row h hr]
    by_cases hf : row.length = Config.rowCapBits
    · rw [rowAppend_of_full v row hf, ih _ init row rfl rfl hl, hf]
      simp
    · rw [rowAppend_of_room v row hf, ih _ init (row ++ [v]) rfl rfl (by simp; omega)]
      have e : Config.rowCapBits - row.length = (Config.rowCapBits - (row ++ [v]).length) + 1 := by simp; omega
      rw [e, List.take_succ_cons]
      simp

/-- Bits appended to an empty buffer open row 0. -/
theorem BitBuf.addBits_of_empty (b : BitBuf) (vs : List Bool) (h : b.ovf = false) (hr : b.rows = []) (hv : vs ≠ []) :
    b.addBits vs = { rows := [vs.take Config.rowCapBits], ovf := false } := by
  cases vs with
  | nil => exact absurd rfl hv
  | cons v vs =>
    rw [BitBuf.addBits_cons, BitBuf.addBit_of_empty b v h hr, BitBuf.addBits_of_rows vs _ [] [v] rfl rfl (by simp)]
    simp [List.take_succ_cons]

/-! ## Inversion (R162) -/

@[simp] theorem BitBuf.invert_invert (b : BitBuf) : b.invert.invert = b := by
  cases b
  simp [BitBuf.invert, Function.comp_def]

@[simp] theorem BitBuf.invert_ovf (b : BitBuf) : b.invert.ovf = b.ovf := rfl

@[simp] theorem BitBuf.length_invert_rows (b : BitBuf) : b.invert.rows.length = b.rows.length := by simp [BitBuf.invert]

theorem BitBuf.row_invert (b : BitBuf) (r : Nat) : b.invert.row r = (b.row r).map fun v => !v := by
  simp only [BitBuf.row, BitBuf.invert, List.getD_eq_getElem?_getD, List.getElem?_map]
  cases b.rows[r]? <;> rfl

@[simp] theorem BitBuf.len_invert (b : BitBuf) (r : Nat) : b.invert.len r = b.len r := by
  simp [BitBuf.len, BitBuf.row_invert]

theorem BitBuf.bit_of_lt (b : BitBuf) (r k : Nat) (h : k < b.len r) : b.bit r k = (b.row r)[k]'h := by
  rw [BitBuf.bit, List.getD_eq_getElem?_getD, List.getElem?_eq_getElem h]
  rfl

theorem BitBuf.bit_of_ge (b : BitBuf) (r k : Nat) (h : b.len r ≤ k) : b.bit r k = false := by
  simp only [BitBuf.bit, BitBuf.len] at *
  exact List.getD_eq_default _ _ h

theorem BitBuf.bit_invert_of_lt (b : BitBuf) (r k : Nat) (h : k < b.len r) : b.invert.bit r k = !b.bit r k := by
  have hk : k < (b.row r).length := h
  simp [BitBuf.bit, BitBuf.row_invert, List.getD_eq_getElem?_getD, List.getElem?_eq_getElem hk]

/-! ## Capacity (R41) -/

theorem BitBuf.fits_empty : BitBuf.empty.fits := ⟨by decide, by simp [BitBuf.empty], by simp [BitBuf.empty]⟩

theorem BitBuf.fits_addRow (b : BitBuf) (h : b.fits) : b.addRow.fits := by
  obtain ⟨h1, h2, h3⟩ := h
  by_cases ho : b.ovf = true
  · rw [b.addRow_of_ovf ho]; exact ⟨h1, h2, h3⟩
  · rw [Bool.not_eq_true] at ho
    by_cases hn : b.rows.length = Config.maxRows
    · rw [b.addRow_of_full ho hn]; exact ⟨h1, h2, fun _ => hn⟩
    · rw [b.addRow_of_room ho hn]
      refine ⟨by simp; omega, ?_, by simp⟩
      intro row hr
      simp only [List.mem_append, List.mem_singleton] at hr
      rcases hr with hr | rfl
      · exact h2 row hr
      · simp

theorem length_rowAppend_le (v : Bool) (row : List Bool) (h : row.length ≤ Config.rowCapBits) :
    (rowAppend v row).length ≤ Config.rowCapBits := by
  by_cases hf : row.length = Config.rowCapBits
  · rw [rowAppend_of_full v row hf]; exact h
  · rw [rowAppend_of_room v row hf]; simp; omega

theorem BitBuf.fits_addBit (b : BitBuf) (v : Bool) (h : b.fits) : (b.addBit v).fits := by
  obtain ⟨h1, h2, h3⟩ := h
  by_cases ho : b.ovf = true
  · rw [b.addBit_of_ovf v ho]; exact ⟨h1, h2, h3⟩
  · rw [Bool.not_eq_true] at ho
    rcases b.rows_cases with hr | ⟨init, row, hr⟩
    · rw [b.addBit_of_empty v ho hr]; exact ⟨by simp, by simp, by simp⟩
    · rw [b.addBit_of_rows v init row ho hr]
      rw [hr] at h1 h2
      refine ⟨by simpa using h1, ?_, by simp⟩
      intro x hx
      simp only [List.mem_append, List.mem_singleton] at hx
      rcases hx with hx | rfl
      · exact h2 x (by simp [hx])
      · exact length_rowAppend_le v row (h2 row (by simp))

theorem BitBuf.fits_addBits (vs : List Bool) : ∀ b : BitBuf, b.fits → (b.addBits vs).fits := by
  induction vs with
  | nil => exact fun _ h => h
  | cons v vs ih => exact fun b h => ih _ (b.fits_addBit v h)

theorem BitBuf.fits_invert (b : BitBuf) (h : b.fits) : b.invert.fits := by
  obtain ⟨h1, h2, h3⟩ := h
  refine ⟨by simpa using h1, ?_, by simpa using h3⟩
  intro row hr
  simp only [BitBuf.invert, List.mem_map] at hr
  obtain ⟨x, hx, rfl⟩ := hr
  simpa using h2 x hx

end Sys2Proof.Machine
end

