-- ==== Sys2Proof/Laws/Memory.lean ====
section
/-!
SUPPORT. The laws of memory: a read after a write, what a write leaves alone, the canonical form, and byte order.
-/

namespace Sys2Proof.Machine

/-! ## One byte -/

/-- A write is read back at its address and changes no other (20_memory.md R78). -/
theorem Memory.read?_write (m : Memory) (a b : Nat) (v : Byte) :
    Memory.read? (Memory.write m a v) b = if a = b then some v else Memory.read? m b := by
  induction m with
  | nil => simp [Memory.write, Memory.read?]
  | cons c m ih =>
    obtain ⟨x, w⟩ := c
    by_cases h1 : a < x
    · simp only [Memory.write, if_pos h1, Memory.read?]
    · by_cases h2 : a = x
      · subst h2
        by_cases h : a = b <;> simp [Memory.write, Memory.read?, h]
      · simp only [Memory.write, if_neg h1, if_neg h2, Memory.read?, ih]
        by_cases hx : x = b
        · rw [if_pos hx, if_pos hx, if_neg (by omega)]
        · rw [if_neg hx, if_neg hx]

/-- Writing one byte keeps what lies above a bound above it. -/
theorem Memory.above_write (m : Memory) (x a : Nat) (v : Byte) (hx : x < a) (h : Memory.above x m = true) :
    Memory.above x (Memory.write m a v) = true := by
  cases m with
  | nil => simpa [Memory.write, Memory.above] using hx
  | cons c m =>
    obtain ⟨b, w⟩ := c
    simp only [Memory.above, decide_eq_true_eq] at h
    by_cases h1 : a < b
    · simpa [Memory.write, h1, Memory.above] using hx
    · by_cases h2 : a = b
      · simpa [Memory.write, h2, Memory.above] using h
      · simpa [Memory.write, h1, h2, Memory.above] using h

/-- Writing one byte of `SCR` or `PT` keeps the canonical form. -/
theorem Memory.wf_write (m : Memory) (a : Nat) (v : Byte) (ha : isRam a = true) (h : Memory.wf m = true) :
    Memory.wf (Memory.write m a v) = true := by
  induction m with
  | nil => simp [Memory.write, Memory.wf, Memory.above, ha]
  | cons c m ih =>
    obtain ⟨b, w⟩ := c
    simp only [Memory.wf, Bool.and_eq_true] at h
    obtain ⟨⟨hb, hab⟩, hm⟩ := h
    by_cases h1 : a < b
    · simp only [Memory.write, if_pos h1, Memory.wf, ha, hb, hab, hm, Bool.and_self, Bool.and_true]
      simpa [Memory.above] using h1
    · by_cases h2 : a = b
      · subst h2
        simp [Memory.write, Memory.wf, ha, hab, hm]
      · have := Memory.above_write m b a v (by omega) hab
        simp [Memory.write, h1, h2, Memory.wf, hb, this, ih hm]

/-! ## Consecutive bytes -/

/-- Everything a store of consecutive bytes does: the bytes are read back, every other address reads as before. -/
theorem Memory.read?_writeBytes (bs : List Byte) : ∀ (m : Memory) (a b : Nat),
    Memory.read? (Memory.writeBytes m a bs) b =
      if a ≤ b ∧ b < a + bs.length then bs[b - a]? else Memory.read? m b := by
  induction bs with
  | nil => intro m a b; simp [Memory.writeBytes]
  | cons v bs ih =>
    intro m a b
    rw [Memory.writeBytes, ih, Memory.read?_write]
    by_cases h : a = b
    · subst h
      simp
    · by_cases h2 : a + 1 ≤ b ∧ b < a + 1 + bs.length
      · have h3 : a ≤ b ∧ b < a + (bs.length + 1) := by omega
        have h4 : b - a = (b - (a + 1)) + 1 := by omega
        simp only [List.length_cons, h2, h3, and_self, if_true, h4, List.getElem?_cons_succ]
      · have h3 : ¬ (a ≤ b ∧ b < a + (bs.length + 1)) := by omega
        simp only [List.length_cons, if_neg h2, if_neg h3, if_neg h]

/-- A store of consecutive bytes that lie in `SCR` or `PT` keeps the canonical form. -/
theorem Memory.wf_writeBytes (bs : List Byte) : ∀ (m : Memory) (a : Nat),
    (∀ j, j < bs.length → isRam (a + j) = true) → Memory.wf m = true → Memory.wf (Memory.writeBytes m a bs) = true := by
  induction bs with
  | nil => intro m a _ h; exact h
  | cons v bs ih =>
    intro m a ha h
    refine ih _ _ ?_ (Memory.wf_write m a v (ha 0 (by simp)) h)
    intro j hj
    have := ha (j + 1) (by simpa using hj)
    rwa [show a + 1 + j = a + (j + 1) by omega]

/-- Reset memory has the canonical form. -/
theorem Memory.wf_reset : Memory.wf State.reset.mem = true := rfl

/-! ## Bytes of the state -/

/-- What the state's byte read gives after a store of consecutive bytes. -/
theorem State.byteAt_writeBytesAt (s : State) (a b : Nat) (bs : List Byte) :
    (s.writeBytesAt a bs).byteAt b = if h : a ≤ b ∧ b < a + bs.length then bs[b - a]'(by omega) else s.byteAt b := by
  simp only [State.byteAt, State.writeBytesAt, Memory.read?_writeBytes]
  by_cases h : a ≤ b ∧ b < a + bs.length
  · simp only [if_pos h, dif_pos h, List.getElem?_eq_getElem (show b - a < bs.length by omega)]
  · simp only [if_neg h, dif_neg h]

/-- A byte outside a store is unchanged. -/
theorem State.byteAt_writeBytesAt_of_outside (s : State) (a b : Nat) (bs : List Byte)
    (h : b < a ∨ a + bs.length ≤ b) : (s.writeBytesAt a bs).byteAt b = s.byteAt b := by
  rw [State.byteAt_writeBytesAt, dif_neg (by omega)]

/-- A byte inside a store is the stored one. -/
theorem State.byteAt_writeBytesAt_of_inside (s : State) (a j : Nat) (bs : List Byte) (h : j < bs.length) :
    (s.writeBytesAt a bs).byteAt (a + j) = bs[j] := by
  rw [State.byteAt_writeBytesAt, dif_pos (by omega)]
  congr 1
  omega

/-- States with the same written bytes and the same epoch read the same everywhere. -/
theorem State.byteAt_congr (s t : State) (hm : t.mem = s.mem) (he : t.epoch = s.epoch) (a : Nat) :
    t.byteAt a = s.byteAt a := by
  simp only [State.byteAt, hm, he]

@[simp] theorem State.length_bytesAt (s : State) (a n : Nat) : (s.bytesAt a n).length = n := by
  simp [State.bytesAt]

@[simp] theorem State.length_scrSlice (s : State) (a n : Nat) : (s.scrSlice a n).length = n := by
  simp [State.scrSlice]

theorem State.getElem_bytesAt (s : State) (a n j : Nat) (h : j < (s.bytesAt a n).length) :
    (s.bytesAt a n)[j] = s.byteAt (a + j) := by
  simp [State.bytesAt]

/-! ## Byte order (20_memory.md R72) -/

@[simp] theorem length_leBytes (n : Nat) : ∀ v : Word, (leBytes n v).length = n := by
  induction n with
  | zero => intro v; rfl
  | succ n ih => intro v; simp [leBytes, ih]

/-- Byte `j` of a word's little-endian bytes. -/
theorem getElem_leBytes (n : Nat) : ∀ (v : Word) (j : Nat) (h : j < (leBytes n v).length),
    (leBytes n v)[j] = (v >>> (8 * j)).setWidth 8 := by
  induction n with
  | zero => intro v j h; simp at h
  | succ n ih =>
    intro v j h
    cases j with
    | zero => simp [leBytes]
    | succ j =>
      simp only [leBytes, List.getElem_cons_succ, ih]
      rw [← BitVec.shiftRight_add, show 8 + 8 * j = 8 * (j + 1) by omega]

/-- Four bytes put together again are the word. -/
theorem leWord_leBytes_four (v : Word) : leWord (leBytes 4 v) = v := by
  ext i hi
  simp only [leBytes, leWord, ← BitVec.shiftRight_add, BitVec.getElem_or, BitVec.getElem_shiftLeft,
    BitVec.getElem_setWidth, BitVec.getLsbD_setWidth, BitVec.getLsbD_ushiftRight]
  rcases Nat.lt_or_ge i 8 with h | h
  · simp [h, BitVec.getLsbD_eq_getElem hi]
  · obtain ⟨k, rfl⟩ := Nat.exists_eq_add_of_le h
    rcases Nat.lt_or_ge k 8 with h | h
    · simp [h, ← BitVec.getLsbD_eq_getElem]
    · obtain ⟨k, rfl⟩ := Nat.exists_eq_add_of_le h
      rcases Nat.lt_or_ge k 8 with h | h
      · simp [h, ← BitVec.getLsbD_eq_getElem]
        rw [show 16 + k = 8 + (8 + k) by omega]
      · obtain ⟨k, rfl⟩ := Nat.exists_eq_add_of_le h
        have h : k < 8 := by omega
        simp [h, ← BitVec.getLsbD_eq_getElem]
        rw [show 24 + k = 8 + (8 + (8 + k)) by omega]

end Sys2Proof.Machine
end

