-- ==== Sys2Proof/Laws/Bits.lean ====
section
/-!
SUPPORT. The laws of bits and bytes: bytes as bit lists, packing bits into a byte, reversal, and the step functions of the
checksum unit applied many times.
-/

namespace Sys2Proof.Machine

/-! ## Bytes as bits (20_memory.md R73) -/

@[simp] theorem length_byteBits (b : Byte) : (byteBits b).length = 8 := by simp [byteBits]

@[simp] theorem bytesBits_nil : bytesBits [] = [] := rfl

@[simp] theorem bytesBits_cons (b : Byte) (m : List Byte) : bytesBits (b :: m) = byteBits b ++ bytesBits m := by
  simp [bytesBits]

@[simp] theorem length_bytesBits (m : List Byte) : (bytesBits m).length = 8 * m.length := by
  induction m with
  | nil => rfl
  | cons b m ih => simp only [bytesBits_cons, List.length_append, length_byteBits, ih, List.length_cons]; omega

theorem getElem_byteBits (b : Byte) (k : Nat) (h : k < (byteBits b).length) : (byteBits b)[k] = b.getMsbD k := by
  simp [byteBits]

/-- The bits of a message, most significant bit of each byte first. -/
theorem getD_bytesBits (m : List Byte) : ∀ k, k < 8 * m.length →
    (bytesBits m).getD k false = (m.getD (k / 8) 0).getLsbD (7 - k % 8) := by
  induction m with
  | nil => intro k hk; simp at hk
  | cons b bs ih =>
    intro k hk
    rw [bytesBits_cons]
    by_cases h : k < 8
    · rw [List.getD_append _ _ _ _ (by simp; omega), Nat.div_eq_of_lt h, Nat.mod_eq_of_lt h]
      simp [byteBits, h, List.getD_eq_getElem?_getD, BitVec.getMsbD]
    · rw [List.getD_append_right _ _ _ _ (by simp; omega), length_byteBits, ih (k - 8) (by simp at hk; omega),
        show k / 8 = (k - 8) / 8 + 1 by omega, show k % 8 = (k - 8) % 8 by omega]
      simp

/-- The bits of the bytes from an address. -/
theorem State.getD_bytesBits_bytesAt (s : State) (a n k : Nat) (h : k < 8 * n) :
    (bytesBits (s.bytesAt a n)).getD k false = (s.byteAt (a + k / 8)).getLsbD (7 - k % 8) := by
  rw [getD_bytesBits _ _ (by simpa using h)]
  simp [State.bytesAt, show k / 8 < n by omega, List.getD_eq_getElem?_getD]

/-! ## Bytes as words (20_memory.md R72) -/

theorem toNat_leWord_cons (b : Byte) (bs : List Byte) (h : (leWord bs).toNat < 2 ^ 24) :
    (leWord (b :: bs)).toNat = b.toNat + 256 * (leWord bs).toNat := by
  have hb := b.isLt
  rw [leWord, BitVec.toNat_or, BitVec.toNat_shiftLeft, BitVec.toNat_setWidth, Nat.shiftLeft_eq,
    Nat.mod_eq_of_lt (by omega), Nat.mod_eq_of_lt (by omega), Nat.mul_comm, ← Nat.two_pow_add_eq_or_of_lt hb]
  omega

/-- Four bytes as a word, in the sum Safety.lean writes out. -/
theorem State.toNat_leWord_bytesAt (s : State) (a : Nat) : (leWord (s.bytesAt a 4)).toNat = s.wordAt a := by
  have e : s.bytesAt a 4 = [s.byteAt a, s.byteAt (a + 1), s.byteAt (a + 2), s.byteAt (a + 3)] := rfl
  have h0 := (s.byteAt a).isLt
  have h1 := (s.byteAt (a + 1)).isLt
  have h2 := (s.byteAt (a + 2)).isLt
  have h3 := (s.byteAt (a + 3)).isLt
  have z : (leWord []).toNat = 0 := rfl
  have e3 := toNat_leWord_cons (s.byteAt (a + 3)) [] (by omega)
  have e2 := toNat_leWord_cons (s.byteAt (a + 2)) _ (by omega : (leWord [s.byteAt (a + 3)]).toNat < 2 ^ 24)
  have e1 := toNat_leWord_cons (s.byteAt (a + 1)) _ (by omega : (leWord [s.byteAt (a + 2), s.byteAt (a + 3)]).toNat < 2 ^ 24)
  rw [e, toNat_leWord_cons _ _ (by omega), State.wordAt]
  omega

/-! ## Packing -/

/-- Bit `k`, from the top, of a byte packed from `f` is `f k`. -/
theorem getMsbD_packByte (f : Nat → Bool) (k : Nat) (hk : k < 8) : (packByte f).getMsbD k = f k := by
  have upTo : ∀ n, n ≤ 8 →
      ((List.range n).foldl (fun acc t => acc ||| (if f t then 1#8 <<< (7 - t) else 0#8)) 0#8).getMsbD k =
        (decide (k < n) && f k) := by
    intro n hn
    induction n with
    | zero => simp
    | succ n ih =>
      rw [List.range_succ, List.foldl_append, List.foldl_cons, List.foldl_nil, BitVec.getMsbD_or, ih (by omega)]
      have one : (if f n then 1#8 <<< (7 - n) else 0#8).getMsbD k = (decide (k = n) && f n) := by
        cases f n
        · simp
        · simp only [BitVec.getMsbD, hk, if_true, BitVec.getLsbD_shiftLeft]
          by_cases e : k = n <;> simp [e] <;> omega
      rw [one]
      rcases Nat.lt_trichotomy k n with h | h | h
      · simp [h, Nat.lt_succ_of_lt h, Nat.ne_of_lt h]
      · subst h; simp
      · simp [show ¬ k < n by omega, show ¬ k < n + 1 by omega, Nat.ne_of_gt h]
  rw [packByte, upTo 8 (by omega)]
  simp [hk]

/-- Two bytes with the same bits from the top are equal. -/
theorem byte_eq_of_getMsbD (x y : Byte) (h : ∀ k, k < 8 → x.getMsbD k = y.getMsbD k) : x = y := by
  apply BitVec.eq_of_getMsbD_eq
  intro k hk
  exact h k hk

/-! ## Iterated steps -/

theorem iterate_succ_apply {w : Nat} (f : BitVec w → BitVec w) (n : Nat) (x : BitVec w) :
    iterate f (n + 1) x = f (iterate f n x) := by
  induction n generalizing x with
  | zero => rfl
  | succ n ih => rw [iterate, ih, iterate]

/-- The key steps are those Safety.lean writes out (40_checksum.md R129 to R132). -/
theorem lfsrStep_eq_keyStepDown {w : Nat} (gen : BitVec w) : lfsrStep gen = keyStepDown gen := rfl

theorem lfsrStepR_eq_keyStepUp {w : Nat} (gen : BitVec w) : lfsrStepR gen = keyStepUp gen := by
  funext key
  simp [lfsrStepR, keyStepUp, BitVec.msb_eq_getLsbD_last]

/-- The key after `k` steps is the step applied `k` times. -/
theorem keyAfter_eq_iterate {w : Nat} (f : BitVec w → BitVec w) (key : BitVec w) (k : Nat) :
    keyAfter f key k = iterate f k key := by
  induction k with
  | zero => rfl
  | succ k ih => rw [keyAfter, ih, iterate_succ_apply]

end Sys2Proof.Machine
end

