-- ==== Sys2Proof/Laws/Ops.lean ====
section
/-!
SUPPORT. What the shared frames of the meanings can answer, one lemma per case, so that a proof about a command cites them and
does not unfold them.
-/

namespace Sys2Proof.Machine

/-! ## Registers as words (10_state.md R32, R46) -/

@[simp] theorem DispState.toNat_code (d : DispState) : d.code.toNat = dstNumber d := by cases d <;> rfl

@[simp] theorem RegState.toNat_code (r : RegState) : r.code.toNat = rstNumber r := by cases r <;> rfl

theorem Desc.word_eq_getD (d : Desc) (w : Nat) (h : w < 16) : d.word w = (descWords d).getD w 0 := by
  interval_cases w <;> rfl

theorem descWords_setWord (d : Desc) (v : Word) (w : Nat) (h : w < 16) :
    descWords (d.setWord v w) = (descWords d).set w v := by
  interval_cases w <;> rfl

@[simp] theorem descWords_zero : descWords Desc.zero = List.replicate 16 0 := rfl

/-- A registry word: zero in a slot that is not registered. -/
theorem State.word_slot (s : State) (i w : Nat) (h : w < 16) :
    (s.slot i).word w = ((s.reg.map descWords).getD i []).getD w 0 := by
  rw [State.slot, Desc.word_eq_getD _ _ h]
  by_cases hi : i < s.reg.length
  · simp [List.getD_eq_getElem?_getD, hi]
  · simp only [List.getD_eq_getElem?_getD, List.getElem?_map, List.getElem?_eq_none (Nat.le_of_not_lt hi)]
    interval_cases w <;> rfl

/-! ## Frames -/

theorem inScr_of_le {a n : Nat} (h : a + n ≤ 1024) : inScr a n = true := by simp [inScr, h]

theorem inScr_of_gt {a n : Nat} (h : 1024 < a + n) : inScr a n = false := by simp [inScr, h]

/-- A command over a slice inside `SCR` is executed (R120). -/
theorem State.onSlice_of_le (s : State) (k : List Byte → State) (h : s.arg0.toNat + s.arg1.toNat ≤ 1024) :
    s.onSlice k = (k (s.scrSlice s.arg0.toNat s.arg1.toNat)).accept := by
  simp [State.onSlice, inScr_of_le h]

/-- A command over a slice that leaves `SCR` is refused (R120). -/
theorem State.onSlice_of_gt (s : State) (k : List Byte → State) (h : 1024 < s.arg0.toNat + s.arg1.toNat) :
    s.onSlice k = s.refuse .range := by
  simp [State.onSlice, inScr_of_gt h]

theorem State.bufLocked_iff (s : State) (b : Buf) : s.bufLocked b = true ↔ b = .bb0 ∧ s.dst = .waitDecode := by
  simp [State.bufLocked]

/-- A buffer that is not under decode can be written (R163). -/
theorem State.bufLocked_of_free (s : State) (b : Buf) (h : b = .bb0 → s.dst ≠ .waitDecode) : s.bufLocked b = false := by
  rw [Bool.eq_false_iff]
  intro hb
  obtain ⟨h1, h2⟩ := (s.bufLocked_iff b).1 hb
  exact h h1 h2

theorem State.bufLocked_of_wait (s : State) (h : s.dst = .waitDecode) : s.bufLocked .bb0 = true :=
  (s.bufLocked_iff .bb0).2 ⟨rfl, h⟩

theorem State.onUnlocked_of_free (s : State) (b : Buf) (k : State) (h : b = .bb0 → s.dst ≠ .waitDecode) :
    s.onUnlocked b k = k := by
  simp [State.onUnlocked, s.bufLocked_of_free b h]

theorem State.onUnlocked_of_wait (s : State) (k : State) (h : s.dst = .waitDecode) :
    s.onUnlocked .bb0 k = s.refuse .state := by
  simp [State.onUnlocked, s.bufLocked_of_wait h]

theorem State.onRow_of_lt (s : State) (b : Buf) (r : Word) (k : State) (h : r.toNat < (s.buf b).rows.length) :
    s.onRow b r k = k := by
  simp [State.onRow, State.rowOk, BitBuf.nrows, h]

theorem State.onRow_of_ge (s : State) (b : Buf) (r : Word) (k : State) (h : (s.buf b).rows.length ≤ r.toNat) :
    s.onRow b r k = s.refuse .row := by
  simp [State.onRow, State.rowOk, BitBuf.nrows, Nat.not_lt.2 h]

/-- Everything the frame of the second-stage commands can answer, in the order of its checks (R190). -/
theorem State.secondStage_cases (s : State) (src dst : Buf) (f : List Bool → Nat → List Bool) :
    (s.bufLocked dst = true ∧ s.secondStage src dst f = s.refuse .state) ∨
      (s.bufLocked dst = false ∧ src = dst ∧ s.secondStage src dst f = s.refuse .buf) ∨
      (s.bufLocked dst = false ∧ src ≠ dst ∧ (s.buf src).rows.length ≤ s.arg0.toNat ∧
        s.secondStage src dst f = s.refuse .row) ∨
      (s.bufLocked dst = false ∧ src ≠ dst ∧ s.arg0.toNat < (s.buf src).rows.length ∧
        s.secondStage src dst f =
          (((s.setBuf dst ((s.buf dst).addBits
            (f (((s.buf src).row s.arg0.toNat).drop s.arg1.toNat) s.arg2.toNat))).setRes0
              (BitVec.ofNat 32 (s.arg1.toNat +
                2 * (f (((s.buf src).row s.arg0.toNat).drop s.arg1.toNat) s.arg2.toNat).length))).setRes1
            (BitVec.ofNat 32 (f (((s.buf src).row s.arg0.toNat).drop s.arg1.toNat) s.arg2.toNat).length)).accept) := by
  by_cases h1 : s.bufLocked dst = true
  · exact .inl ⟨h1, by simp [State.secondStage, h1]⟩
  · rw [Bool.not_eq_true] at h1
    by_cases h2 : src = dst
    · exact .inr (.inl ⟨h1, h2, by simp [State.secondStage, h2, h1]⟩)
    · rcases Nat.lt_or_ge s.arg0.toNat (s.buf src).rows.length with h3 | h3
      · exact .inr (.inr (.inr ⟨h1, h2, h3, by simp [State.secondStage, h1, h2, s.onRow_of_lt src _ _ h3]⟩))
      · exact .inr (.inr (.inl ⟨h1, h2, h3, by simp [State.secondStage, h1, h2, s.onRow_of_ge src _ _ h3]⟩))

/-! ## Stores to `SCR` -/

/-- What the byte read gives after a store to `SCR` (R172, R134). -/
theorem State.byteAt_writeScr (s : State) (a x : Nat) (bs : List Byte) :
    (s.writeScr a bs).byteAt x =
      if h : Config.scrBase + a ≤ x ∧ x < Config.scrBase + a + bs.length then
        bs[x - (Config.scrBase + a)]'(by omega) else s.byteAt x :=
  s.byteAt_writeBytesAt (Config.scrBase + a) x bs

theorem State.getElem_scrSlice (s : State) (a n j : Nat) (h : j < (s.scrSlice a n).length) :
    (s.scrSlice a n)[j] = s.byteAt (Config.scrBase + a + j) := s.getElem_bytesAt _ _ j h

/-- A store inside `SCR` keeps the canonical form (log 5). -/
theorem State.wf_writeScr (s : State) (a : Nat) (bs : List Byte) (h : a + bs.length ≤ 1024)
    (hm : Memory.wf s.mem = true) : Memory.wf (s.writeScr a bs).mem = true := by
  refine Memory.wf_writeBytes bs s.mem _ (fun j hj => ?_) hm
  simp only [isRam, Config.scrBase, Config.scrBytes]
  simp
  omega

end Sys2Proof.Machine
end

