-- ==== Sys2Proof/Laws/Bus.lean ====
section
/-!
SUPPORT. The laws of the bus: what each address names, which accesses are answered with an error, and what an issued word does.
-/

namespace Sys2Proof.Machine

/-! ## The address map (20_memory.md R71, R76) -/

/-- Which offsets of the register page name a register (10_state.md R26). -/
theorem targetOf_page_isSome : ∀ a : Fin 256,
    (targetOf a.val).isSome = true ↔ (a.val < 0x58 ∨ (0x80 ≤ a.val ∧ a.val < 0xC0)) := by
  decide +kernel

/-- The access each offset of the register page takes, offset by offset (10_state.md R26). -/
theorem targetOf_page_all : ∀ a : Fin 256,
    (targetOf a.val).all (fun t => decide (t ≠ .scr ∧
      (t.readOnly = true ↔ (a.val < 0x10 ∨ (0x14 ≤ a.val ∧ a.val < 0x20) ∨ (0x38 ≤ a.val ∧ a.val < 0x58))) ∧
      (t.frozenInDispatch = true ↔ (0x30 ≤ a.val ∧ a.val < 0x34)) ∧
      (t = .page .cmd ↔ (0x10 ≤ a.val ∧ a.val < 0x14)))) = true := by
  decide +kernel

theorem targetOf_scr (a : Nat) (h : 0x400 ≤ a ∧ a < 0x800) : targetOf a = some .scr := by
  rw [targetOf, if_neg (by omega), if_pos (by simp only [Config.scrBase, Config.scrBytes]; omega)]

theorem targetOf_pt (a : Nat) (h : 0x2000 ≤ a ∧ a < 0x4000) : targetOf a = some .pt := by
  rw [targetOf, if_neg (by omega), if_neg (by simp only [Config.scrBase, Config.scrBytes]; omega),
    if_pos (by simp only [Config.ptBase, Config.regBase]; omega)]

theorem targetOf_reg (a : Nat) (h : 0x4000 ≤ a ∧ a < 0x8000) :
    targetOf a = some (.reg ((a - 0x4000) / 64) ((a - 0x4000) % 64 / 4)) := by
  rw [targetOf, if_neg (by omega), if_neg (by simp only [Config.scrBase, Config.scrBytes]; omega),
    if_neg (by simp only [Config.ptBase, Config.regBase]; omega),
    if_pos (by simp only [Config.regBase, Config.busEnd]; omega)]

theorem targetOf_hole (a : Nat) (h : (0x100 ≤ a ∧ a < 0x400) ∨ (0x800 ≤ a ∧ a < 0x2000) ∨ 0x8000 ≤ a) : targetOf a = none := by
  rw [targetOf, if_neg (by omega), if_neg (by simp only [Config.scrBase, Config.scrBytes]; omega),
    if_neg (by simp only [Config.ptBase, Config.regBase]; omega),
    if_neg (by simp only [Config.regBase, Config.busEnd]; omega)]

/-- What an address names, in the terms of R71 and R76. -/
theorem targetOf_cases (a : Nat) :
    (targetOf a = none ∧ ¬ mapped a) ∨
      ∃ t, targetOf a = some t ∧ mapped a ∧ (t = .scr ↔ (0x400 ≤ a ∧ a < 0x800)) ∧
        (t.readOnly = true ↔ writeProtected a) ∧
        (t.frozenInDispatch = true ↔ ((0x30 ≤ a ∧ a < 0x34) ∨ (0x2000 ≤ a ∧ a < 0x4000))) ∧
        (t = .page .cmd ↔ (0x10 ≤ a ∧ a < 0x14)) := by
  by_cases h1 : a < 0x100
  · have h := targetOf_page_isSome ⟨a, h1⟩
    have hall := targetOf_page_all ⟨a, h1⟩
    cases ht : targetOf a with
    | none =>
      simp only [ht, Option.isSome_none, Bool.false_eq_true, false_iff] at h
      exact .inl ⟨rfl, by simp only [mapped]; omega⟩
    | some t =>
      simp only [ht, Option.isSome_some, true_iff, Option.all_some, decide_eq_true_eq] at h hall
      obtain ⟨g2, g3, g4, g5⟩ := hall
      refine .inr ⟨t, rfl, by simp only [mapped]; omega, ⟨fun e => absurd e g2, fun e => by omega⟩, ?_, ?_, g5⟩
      · rw [g3]; simp only [writeProtected]; omega
      · rw [g4]; omega
  · by_cases h2 : 0x400 ≤ a ∧ a < 0x800
    · refine .inr ⟨_, targetOf_scr a h2, by simp only [mapped]; omega, by simp [h2], ?_, ?_, ?_⟩
      · simp only [Target.readOnly, writeProtected]; simp; omega
      · simp only [Target.frozenInDispatch]; simp; omega
      · simp; omega
    · by_cases h3 : 0x2000 ≤ a ∧ a < 0x4000
      · refine .inr ⟨_, targetOf_pt a h3, by simp only [mapped]; omega, by simp [h2], ?_, ?_, ?_⟩
        · simp only [Target.readOnly, writeProtected]; simp; omega
        · simp only [Target.frozenInDispatch]; simp; omega
        · simp; omega
      · by_cases h4 : 0x4000 ≤ a ∧ a < 0x8000
        · refine .inr ⟨_, targetOf_reg a h4, by simp only [mapped]; omega, by simp [h2], ?_, ?_, ?_⟩
          · simp only [Target.readOnly, writeProtected]; simp; omega
          · simp only [Target.frozenInDispatch]; simp; omega
          · simp; omega
        · exact .inl ⟨targetOf_hole a (by omega), by simp only [mapped]; omega⟩

/-- The bus-error tests answer an error exactly where an access errs (R76), else the target. -/
theorem State.busCheck_cases (s : State) (isWrite : Bool) (size : Size) (a : Nat) :
    (s.accessErrs isWrite size a ∧ ∃ e, s.busCheck isWrite size a = .error e) ∨
      (¬ s.accessErrs isWrite size a ∧ ∃ t, targetOf a = some t ∧ s.busCheck isWrite size a = .ok t) := by
  rcases targetOf_cases a with ⟨h, hm⟩ | ⟨t, h, hm, h1, h2, h3, -⟩
  · exact .inl ⟨.inl hm, _, by simp only [State.busCheck, h]; rfl⟩
  · by_cases c1 : t ≠ .scr ∧ size ≠ .four
    · exact .inl ⟨.inr (.inl ⟨c1.2, fun e => c1.1 (h1.2 e)⟩), _, by simp only [State.busCheck, h, if_pos c1]; rfl⟩
    · by_cases c2 : a % size.bytes ≠ 0
      · exact .inl ⟨.inr (.inr (.inl c2)), _, by simp only [State.busCheck, h, if_neg c1, if_pos c2]; rfl⟩
      · by_cases c3 : isWrite = true ∧ t.readOnly = true
        · exact .inl ⟨.inr (.inr (.inr (.inl ⟨c3.1, h2.1 c3.2⟩))), _, by
            simp only [State.busCheck, h, if_neg c1, if_neg c2, if_pos c3]; rfl⟩
        · by_cases c4 : isWrite = true ∧ t.frozenInDispatch = true ∧ s.dst = .waitDecode
          · exact .inl ⟨.inr (.inr (.inr (.inr ⟨c4.1, h3.1 c4.2.1, c4.2.2⟩))), _, by
              simp only [State.busCheck, h, if_neg c1, if_neg c2, if_neg c3, if_pos c4]; rfl⟩
          · refine .inr ⟨?_, t, h, by simp only [State.busCheck, h, if_neg c1, if_neg c2, if_neg c3, if_neg c4]⟩
            rintro (g | ⟨g1, g2⟩ | g | ⟨g1, g2⟩ | ⟨g1, g2, g3⟩)
            · exact g hm
            · exact c1 ⟨fun e => g2 (h1.1 e), g1⟩
            · exact c2 g
            · exact c3 ⟨g1, h2.2 g2⟩
            · exact c4 ⟨g1, h3.2 g2, g3⟩

/-! ## The step -/

/-- The step that serves a read. -/
theorem step_read (s : State) (size : Size) (a : BusAddr) (rest : List Request) (h : s.requests = .read size a :: rest) :
    step s = .next (match s.busCheck false size a.toNat with
      | .error _ => { s with requests := rest, resp := .busError }
      | .ok t => { s with requests := rest, resp := .data (s.readTarget size a.toNat t) }) := by
  have e : step s = State.serve (.read size a) { s with requests := rest } := by rw [step, State.serveNext, h]
  rw [e, State.serve]
  have hc : State.busCheck { s with requests := rest } false size a.toNat = s.busCheck false size a.toNat := rfl
  rw [hc]
  cases s.busCheck false size a.toNat with
  | error e => rfl
  | ok t =>
    cases t with
    | page r => cases r <;> rfl
    | _ => rfl

/-- The step that serves a write. -/
theorem step_write (s : State) (size : Size) (a : BusAddr) (v : Word) (rest : List Request)
    (h : s.requests = .write size a v :: rest) :
    step s = match s.busCheck true size a.toNat with
      | .error _ => .next { s with requests := rest, resp := .busError }
      | .ok t => State.writeTarget size a.toNat v { s with requests := rest, resp := .done } t := by
  have e : step s = State.serve (.write size a v) { s with requests := rest } := by rw [step, State.serveNext, h]
  rw [e, State.serve]
  have hc : State.busCheck { s with requests := rest } true size a.toNat = s.busCheck true size a.toNat := rfl
  rw [hc]
  cases s.busCheck true size a.toNat <;> rfl

/-- The step that serves the write of a command word to `CMD` issues it (R100). -/
theorem step_issue (s : State) (w : Word) (rest : List Request) (h : s.requests = .write .four 0x10#15 w :: rest) :
    step s = State.issue w { s with requests := rest, resp := .done } := by
  rw [step, State.serveNext, h]
  rfl

/-- The step that serves a `RESET`. -/
theorem step_reset (s : State) (rest : List Request) (h : s.requests = .reset :: rest) :
    step s = .next { State.reset with requests := rest, evt := s.evt, epoch := s.epoch + 1 } := by
  rw [step, State.serveNext, h]
  rfl

/-- With nothing pending the block does nothing (log 1). -/
theorem step_idle (s : State) (h : s.requests = []) : step s = .next s := by
  rw [step, State.serveNext, h]

end Sys2Proof.Machine
end

