-- ==== Sys2Proof/Laws/Demod.lean ====
section
/-!
SUPPORT. The laws of a demodulation: it changes its buffer by `Emit` alone, what rows it has built, and
what is left of it after a pair.
-/

namespace Sys2Proof.Machine

/-! ## A property of the buffer that `Emit` keeps -/

section Kept

variable (P : BitBuf → Prop) (he : ∀ (d : Demod) (v : Bool), P d.buf → P (d.emit v).buf)
include he

theorem Demod.emitN_keeps (v : Bool) (n : Nat) : ∀ d : Demod, P d.buf → P (Demod.emitN v n d).buf := by
  induction n with
  | zero => exact fun _ h => h
  | succ n ih => exact fun d h => ih _ (he d v h)

theorem Demod.symbol_keeps (p : Desc) (shortBit : Bool) (k : Sym) (d : Demod) (h : P d.buf) :
    P (d.symbol p shortBit k).buf := by
  unfold Demod.symbol
  split
  · split
    · cases k <;> first | exact he d.enter _ h | exact h
    · split <;> exact h
  · cases k <;> first | exact he d _ h | exact h

theorem Demod.feed_keeps (diff v : Bool) (d : Demod) (h : P d.buf) : P (d.feed diff v).1.buf := by
  unfold Demod.feed
  split
  · split <;> exact h
  · split
    · exact he d _ h
    · split
      · exact h
      · exact he d _ h

theorem Demod.feedRun_keeps (diff v : Bool) (n : Nat) : ∀ d : Demod, P d.buf → P (Demod.feedRun diff v n d).1.buf := by
  induction n with
  | zero => exact fun _ h => h
  | succ n ih =>
    intro d h
    have hf := Demod.feed_keeps P he diff v d h
    rw [Demod.feedRun]
    split
    · rename_i e; rw [e] at hf; exact hf
    · rename_i e; rw [e] at hf; exact ih _ hf

theorem Demod.run_keeps (diff v : Bool) (n : Option Nat) (d : Demod) (h : P d.buf) : P (d.run diff v n).1.buf := by
  cases n with
  | none => exact h
  | some n => exact Demod.feedRun_keeps P he diff v n d h

theorem Demod.close_keeps (d : Demod) (h : P d.buf) : P d.close.buf := by
  unfold Demod.close
  split
  · exact he d _ h
  · exact h

theorem stepPair_keeps (p : Desc) (pulse gap : Nat) (d : Demod) (h : P d.buf) : P (stepPair p pulse gap d).buf := by
  unfold stepPair
  split
  · unfold stepPwm
    have hs := Demod.symbol_keeps P he p true (classify p pulse) d h
    repeat' split
    all_goals exact hs
  · split
    · unfold stepPpm
      repeat' split
      all_goals first | exact h | exact Demod.symbol_keeps P he p false _ d h
    · split
      · unfold stepPcm
        cases pcmOnes p pulse with
        | none =>
          simp only
          repeat' split
          all_goals exact h
        | some n =>
          have hn : P (d.enter.emitRun true n).buf := Demod.emitN_keeps P he true _ d.enter h
          simp only
          repeat' split
          all_goals first | exact hn | exact Demod.emitN_keeps P he false _ _ hn
      · unfold stepMc
        have hr := Demod.run_keeps P he (p.coding != 3#3) true (chips p pulse) d h
        have hc := Demod.close_keeps P he _ hr
        simp only
        repeat' split
        all_goals first | exact hr | exact hc | exact Demod.run_keeps P he _ false _ _ hr

theorem demodPairs_keeps (p : Desc) (train : List (Nat × Nat)) : ∀ d : Demod, P d.buf → P (demodPairs p train d).buf := by
  induction train with
  | nil => exact fun _ h => h
  | cons x rest ih =>
    obtain ⟨pulse, gap⟩ := x
    intro d h
    have hs := stepPair_keeps P he p pulse gap d h
    rw [demodPairs]
    split
    · exact hs
    · exact ih _ hs

/-- A property of buffers that holds of the empty one and that `Emit` keeps holds of every demodulation (R205, R206). -/
theorem demodTrain_keeps (h0 : P BitBuf.empty) (p : Desc) (train : List (Nat × Nat)) : P (demodTrain p train).buf := by
  have hp := demodPairs_keeps P he p train Demod.start h0
  unfold demodTrain
  simp only
  split
  · exact hp
  · unfold Demod.endOfTrain
    split
    · exact Demod.close_keeps P he _ hp
    · exact hp

end Kept

/-! ## Rows as stored (R206, R216) -/

theorem stored_addRow_addBit (rows : List (List Bool)) (v : Bool) :
    (stored rows).addRow.addBit v = stored (rows ++ [[v]]) := by
  by_cases h1 : 25 < rows.length
  · simp [stored, BitBuf.addRow, BitBuf.addBit, h1, show 25 < rows.length + 1 by omega,
      List.take_append_of_le_length (Nat.le_of_lt h1)]
  · by_cases h2 : rows.length = 25
    · simp [stored, BitBuf.addRow, BitBuf.addBit, BitBuf.nrows, h2, Config.maxRows,
        List.take_append_of_le_length (Nat.le_of_eq h2.symm)]
    · simp [stored, BitBuf.addRow, BitBuf.addBit, BitBuf.nrows, h1, Config.maxRows, rowAppend, h2,
        List.take_of_length_le (show rows.length ≤ 25 by omega),
        List.take_of_length_le (show (rows ++ [[v]]).length ≤ 25 by simp; omega), show ¬ 25 < rows.length + 1 by omega]

theorem rowAppend_take (v : Bool) (row : List Bool) : rowAppend v (row.take 4096) = (row ++ [v]).take 4096 := by
  by_cases h : row.length < 4096
  · rw [List.take_of_length_le (Nat.le_of_lt h), List.take_of_length_le (by simp; omega),
      rowAppend_of_room v row (by simp only [Config.rowCapBits]; omega)]
  · rw [List.take_append_of_le_length (by omega), rowAppend_of_full]
    simp only [List.length_take, Config.rowCapBits]; omega

theorem stored_addBit (rows : List (List Bool)) (row : List Bool) (v : Bool) :
    (stored (rows ++ [row])).addBit v = stored (rows ++ [row ++ [v]]) := by
  by_cases h1 : 25 < rows.length + 1
  · simp [stored, BitBuf.addBit, h1, List.take_append_of_le_length (show 25 ≤ rows.length by omega)]
  · have e : ∀ r, (stored (rows ++ [r])).rows = rows.map (fun x => x.take 4096) ++ [r.take 4096] := by
      intro r; simp [stored, List.take_of_length_le (show (rows ++ [r]).length ≤ 25 by simp; omega)]
    rw [BitBuf.addBit_of_rows _ v _ _ (by simp [stored, h1]) (e row), rowAppend_take, ← e]
    simp [stored, h1]

/-- Bits of the last row beyond capacity are not stored. -/
theorem stored_congr (rows : List (List Bool)) (row row' : List Bool) (h : row.take 4096 = row'.take 4096) :
    stored (rows ++ [row]) = stored (rows ++ [row']) := by
  simp only [stored, List.take_append, List.map_append, List.length_append, List.length_singleton]
  rw [show ([row].take (25 - rows.length)).map (fun r => r.take 4096) = ([row'].take (25 - rows.length)).map fun r => r.take 4096 by
    cases 25 - rows.length <;> simp [h]]

/-! ## The rows a demodulation has built -/

/-- The rows there are when `row` is under way after the rows `done`. -/
def withRow (done : List (List Bool)) (row : List Bool) : List (List Bool) := done ++ if row = [] then [] else [row]

theorem withRow_of_ne (done : List (List Bool)) (row : List Bool) (h : row ≠ []) : withRow done row = done ++ [row] := by
  rw [withRow, if_neg h]

@[simp] theorem withRow_nil (done : List (List Bool)) : withRow done [] = done := by simp [withRow]

/-- A demodulation that has ended the rows `done` and put the bits `row` into the one under way. -/
def Demod.Holds (d : Demod) (done : List (List Bool)) (row : List Bool) : Prop :=
  d.fresh = row.isEmpty ∧ d.buf = stored (withRow done row)

theorem Demod.holds_start : Demod.start.Holds [] [] := ⟨rfl, rfl⟩

/-- What is held depends on the buffer and the fresh flag alone. -/
theorem Demod.Holds.congr {d e : Demod} {done : List (List Bool)} {row : List Bool} (h : d.Holds done row)
    (hf : e.fresh = d.fresh) (hb : e.buf = d.buf) : e.Holds done row := ⟨hf ▸ h.1, hb ▸ h.2⟩

/-- The end of the row under way (R206): every later bit opens a new one. -/
theorem Demod.Holds.endRow {d e : Demod} {done : List (List Bool)} {row : List Bool} (h : d.Holds done row)
    (hf : e.fresh = true) (hb : e.buf = d.buf) : e.Holds (withRow done row) [] :=
  ⟨hf, by rw [hb, h.2, withRow_nil]⟩

/-- `Emit` (R206). -/
theorem Demod.Holds.emit {d : Demod} {done : List (List Bool)} {row : List Bool} (h : d.Holds done row) (v : Bool) :
    (d.emit v).Holds done (row ++ [v]) := by
  obtain ⟨hf, hb⟩ := h
  refine ⟨by simp [Demod.emit], ?_⟩
  rw [withRow_of_ne _ _ (by simp)]
  by_cases hr : row = []
  · subst hr
    simp only [Demod.emit, hf, hb, List.isEmpty_nil, if_true, withRow_nil, List.nil_append]
    exact stored_addRow_addBit done v
  · have : row.isEmpty = false := by simpa using hr
    simp only [Demod.emit, hf, this, hb, withRow_of_ne _ _ hr, Bool.false_eq_true, if_false]
    exact stored_addBit done row v

theorem Demod.Holds.emitN {d : Demod} {done : List (List Bool)} {row : List Bool} (h : d.Holds done row) (v : Bool)
    (n : Nat) : (Demod.emitN v n d).Holds done (row ++ List.replicate n v) := by
  induction n generalizing d row with
  | zero => simpa [Demod.emitN] using h
  | succ n ih => simpa [Demod.emitN, List.replicate_succ] using ih (h.emit v)

/-- A run of equal bits, whatever its length: beyond the cap of log 9 the row is full. -/
theorem Demod.Holds.emitRun {d : Demod} {done : List (List Bool)} {row : List Bool} (h : d.Holds done row) (v : Bool)
    (n : Nat) : (d.emitRun v n).Holds done (row ++ List.replicate n v) := by
  have hm := h.emitN v (min n Config.rowCapBits)
  by_cases hn : n ≤ Config.rowCapBits
  · rw [Nat.min_eq_left hn] at hm
    rwa [Demod.emitRun, Nat.min_eq_left hn]
  · rw [Nat.min_eq_right (by omega)] at hm
    rw [Demod.emitRun, Nat.min_eq_right (by omega)]
    simp only [Config.rowCapBits] at hm hn ⊢
    have hne : ∀ k, 0 < k → row ++ List.replicate k v ≠ [] := by intro k hk; simp; omega
    refine ⟨?_, ?_⟩
    · rw [hm.1]
      have h1 := hne 4096 (by omega)
      have h2 := hne n (by omega)
      simp only [← List.isEmpty_eq_false_iff] at h1 h2
      rw [h1, h2]
    · rw [hm.2, withRow_of_ne _ _ (hne _ (by omega)), withRow_of_ne _ _ (hne _ (by omega))]
      refine stored_congr _ _ _ ?_
      rw [List.take_append, List.take_append, List.take_replicate, List.take_replicate]
      congr 2; omega

/-! ## What is left to do in a demodulation -/

/-- The rest of a demodulation: the pairs still to come and the end of the train (R205, R215). -/
def demodRest (p : Desc) (train : List (Nat × Nat)) (d : Demod) : Demod :=
  let d := demodPairs p train d
  if d.st = .endOfMessage then d else d.endOfTrain p

theorem demodRest_nil (p : Desc) (d : Demod) (h : d.st ≠ .endOfMessage) : demodRest p [] d = d.endOfTrain p := by
  simp [demodRest, demodPairs, h]

/-- A step that ends the message ends the demodulation. -/
theorem demodRest_stop (p : Desc) (pulse gap : Nat) (rest : List (Nat × Nat)) (d : Demod)
    (h : (stepPair p pulse gap d).st = .endOfMessage) : demodRest p ((pulse, gap) :: rest) d = stepPair p pulse gap d := by
  simp [demodRest, demodPairs, h]

theorem demodRest_cons (p : Desc) (pulse gap : Nat) (rest : List (Nat × Nat)) (d : Demod)
    (h : (stepPair p pulse gap d).st ≠ .endOfMessage) :
    demodRest p ((pulse, gap) :: rest) d = demodRest p rest (stepPair p pulse gap d) := by
  simp [demodRest, demodPairs, h]

/-! ## Rows of outputs -/

theorem rowsFrom_none (done : List (List Bool)) (row : List Bool) (outs : List (Option Bool)) :
    done ++ rowsFrom row (none :: outs) = withRow done row ++ rowsFrom [] outs := by
  simp [rowsFrom, withRow]

theorem rowsFrom_nil (done : List (List Bool)) (row : List Bool) : done ++ rowsFrom row [] = withRow done row := rfl

theorem rowsFrom_run (row : List Bool) (v : Bool) (n : Nat) (outs : List (Option Bool)) :
    rowsFrom row (List.replicate n (some v) ++ outs) = rowsFrom (row ++ List.replicate n v) outs := by
  induction n generalizing row with
  | zero => simp
  | succ n ih => simp only [List.replicate_succ, List.cons_append, rowsFrom, ih]; simp

/-- A message of outputs alone is one row. -/
theorem stored_rowsFrom_bits (bits : List Bool) (h : bits.length ≤ 4096) :
    stored (rowsFrom [] (bits.map some)) = { rows := if bits = [] then [] else [bits], ovf := false } := by
  have hr : ∀ row : List Bool, rowsFrom row (bits.map some) = withRow [] (row ++ bits) := by
    induction bits with
    | nil => intro row; simp [rowsFrom, withRow]
    | cons v vs ih => intro row; rw [List.map_cons, rowsFrom, ih (by simp at h; omega)]; simp
  rw [hr, withRow]
  by_cases hb : bits = []
  · simp [hb, stored]
  · simp [hb, stored, List.take_of_length_le h]

/-! ## Widths -/

/-- The distance of two numbers, as integers. -/
theorem absDiff_eq_natAbs (a b : Nat) : absDiff a b = ((a : Int) - b).natAbs := by unfold absDiff; omega

/-- `rnd` of an exact multiple (R204). -/
theorem rnd_mul (n t : Nat) (ht : 1 ≤ t) : rnd (n * t) t = n := by
  rw [rnd, show 2 * (n * t) + t = t + (2 * t) * n by ring, Nat.add_mul_div_left _ _ (by omega),
    Nat.div_eq_of_lt (by omega), Nat.zero_add]

end Sys2Proof.Machine
end

