-- ==== Sys2Proof/Laws/Dispatcher.lean ====
section
/-!
SUPPORT. The laws of the dispatcher: dispatch order, the `TRIED` bits, compatibility, and everything a selection can do.
-/

namespace Sys2Proof.Machine

/-! ## Dispatch order (45_registry_dispatch.md R255) -/

/-- Slot `c` comes no later than slot `i` in dispatch order (R255). -/
def State.noLater (s : State) (c i : Nat) : Prop :=
  (s.slot c).priority.toInt < (s.slot i).priority.toInt ∨
    ((s.slot c).priority.toInt = (s.slot i).priority.toInt ∧ c ≤ i)

/-- Everything the search for the first slot can answer. -/
theorem State.firstSlot_cases (s : State) (x : Nat → Bool) :
    (s.firstSlot x = none ∧ ∀ i, i < s.reg.length → x i = false) ∨
      ∃ c, s.firstSlot x = some c ∧ c < s.reg.length ∧ x c = true ∧
        ∀ i, i < s.reg.length → x i = true → s.noLater c i := by
  unfold State.firstSlot
  induction s.reg.length with
  | zero => exact .inl ⟨rfl, fun i hi => absurd hi (Nat.not_lt_zero i)⟩
  | succ n ih =>
    rw [List.range_succ, List.foldl_append, List.foldl_cons, List.foldl_nil]
    by_cases hx : x n = true
    · right
      rw [if_pos hx]
      rcases ih with ⟨h, hn⟩ | ⟨c, h, hc, hxc, hm⟩
      · rw [h]
        refine ⟨n, rfl, by omega, hx, fun i hi hxi => ?_⟩
        rcases Nat.lt_succ_iff_lt_or_eq.1 hi with g | rfl
        · rw [hn i g] at hxi; cases hxi
        · exact .inr ⟨rfl, Nat.le_refl _⟩
      · rw [h]
        by_cases hp : (s.slot n).priority.toInt < (s.slot c).priority.toInt
        · refine ⟨n, by simp only [hp, if_true], by omega, hx, fun i hi hxi => ?_⟩
          rcases Nat.lt_succ_iff_lt_or_eq.1 hi with g | rfl
          · rcases hm i g hxi with g' | g' <;> exact .inl (by omega)
          · exact .inr ⟨rfl, Nat.le_refl _⟩
        · refine ⟨c, by simp only [hp, if_false], by omega, hxc, fun i hi hxi => ?_⟩
          rcases Nat.lt_succ_iff_lt_or_eq.1 hi with g | rfl
          · exact hm i g hxi
          · unfold State.noLater; omega
    · rw [if_neg hx]
      rw [Bool.not_eq_true] at hx
      rcases ih with ⟨h, hn⟩ | ⟨c, h, hc, hxc, hm⟩
      · refine .inl ⟨h, fun i hi => ?_⟩
        rcases Nat.lt_succ_iff_lt_or_eq.1 hi with g | rfl
        · exact hn i g
        · exact hx
      · refine .inr ⟨c, h, by omega, hxc, fun i hi hxi => ?_⟩
        rcases Nat.lt_succ_iff_lt_or_eq.1 hi with g | rfl
        · exact hm i g hxi
        · rw [hx] at hxi; cases hxi

/-- Two slots neither of which comes later than the other are the same slot. -/
theorem State.noLater_antisymm (s : State) (c d : Nat) (h : s.noLater c d) (h' : s.noLater d c) : c = d := by
  unfold State.noLater at h h'
  omega

theorem State.firstSlot_lt (s : State) (x : Nat → Bool) (c : Nat) (h : s.firstSlot x = some c) :
    c < s.reg.length ∧ x c = true := by
  rcases s.firstSlot_cases x with ⟨g, -⟩ | ⟨d, g, h1, h2, -⟩ <;> rw [g] at h <;> cases h
  exact ⟨h1, h2⟩

theorem State.firstSlot_none (s : State) (x : Nat → Bool) (h : s.firstSlot x = none) :
    ∀ i, i < s.reg.length → x i = false := by
  rcases s.firstSlot_cases x with ⟨-, g⟩ | ⟨d, g, -⟩
  · exact g
  · rw [g] at h; cases h

/-- The search depends on the registry and the property alone. -/
theorem State.firstSlot_congr (s t : State) (x y : Nat → Bool) (h : s.reg = t.reg) (hx : x = y) :
    s.firstSlot x = t.firstSlot y := by
  subst hx
  unfold State.firstSlot State.slot
  rw [h]

/-! ## The `TRIED` bits (10_state.md R49) -/

theorem getLsbD_setTried (t : BitVec 256) (i j : Nat) :
    (setTried t i).getLsbD j = (t.getLsbD j || (decide (i < 256) && decide (i = j))) := by
  simp only [setTried, BitVec.getLsbD_or, BitVec.getLsbD_twoPow]

theorem getLsbD_foldl_setTried (x : Nat → Bool) (n : Nat) (t : BitVec 256) (j : Nat) :
    ((List.range n).foldl (fun t i => if x i then setTried t i else t) t).getLsbD j =
      (t.getLsbD j || (decide (j < n) && (decide (j < 256) && x j))) := by
  induction n with
  | zero => simp
  | succ n ih =>
    rw [List.range_succ, List.foldl_append, List.foldl_cons, List.foldl_nil]
    by_cases hx : x n = true
    · rw [if_pos hx, getLsbD_setTried, ih]
      rcases Nat.lt_trichotomy j n with h | h | h
      · simp [h, Nat.lt_succ_of_lt h, Nat.ne_of_gt h]
      · subst h; simp [hx]
      · simp [show ¬ j < n by omega, show ¬ j < n + 1 by omega, Nat.ne_of_lt h]
    · rw [if_neg hx, ih]
      rcases Nat.lt_trichotomy j n with h | h | h
      · simp [h, Nat.lt_succ_of_lt h]
      · subst h; simp [hx]
      · simp [show ¬ j < n by omega, show ¬ j < n + 1 by omega]

/-- What marking slots does to a `TRIED` bit (R258, R263). -/
theorem State.tried_markTried (s : State) (x : Nat → Bool) (j : Nat) :
    (s.markTried x).tried.getLsbD j = (s.tried.getLsbD j || (decide (j < s.reg.length) && (decide (j < 256) && x j))) :=
  getLsbD_foldl_setTried x _ _ j

/-! ## Compatibility and eligibility (R256, R257) -/

@[simp] theorem absDiff_self (a : Nat) : absDiff a a = 0 := by simp [absDiff]

/-- R256: "`compatible(c, c)` is always true". -/
@[simp] theorem compatible_refl (c : Desc) : compatible c c = true := by simp [compatible]

theorem State.eligible_iff (s : State) (i : Nat) :
    s.eligible i = true ↔ i < s.reg.length ∧ (s.slot i).disabled = false ∧ s.tried.getLsbD i = false := by
  simp [State.eligible]

/-- Eligibility depends on the registry and the `TRIED` bits alone. -/
theorem State.eligible_congr (s t : State) (hr : s.reg = t.reg) (ht : s.tried = t.tried) : s.eligible = t.eligible := by
  funext i
  simp only [State.eligible, State.slot, hr, ht]

/-- The first decoder depends on the registry and the `TRIED` bits alone. -/
theorem State.firstDecoder_congr (s t : State) (c : Nat) (hr : s.reg = t.reg) (ht : s.tried = t.tried) :
    s.firstDecoder c = t.firstDecoder c := by
  unfold State.firstDecoder
  refine State.firstSlot_congr s t _ _ hr ?_
  funext d
  simp only [State.eligible, State.slot, hr, ht]

/-- R259: "Directly after a demodulation the first such `d` is `CAND` itself". -/
theorem State.firstDecoder_tryCandidate (s : State) (c : Nat) (h : s.firstSlot s.eligible = some c) :
    (s.tryCandidate c).firstDecoder c = some c := by
  rw [State.firstDecoder_congr (s.tryCandidate c) s c rfl rfl]
  rcases s.firstSlot_cases s.eligible with ⟨g, -⟩ | ⟨d, g, h1, h2, h3⟩ <;> rw [g] at h <;> cases h
  unfold State.firstDecoder
  rcases s.firstSlot_cases fun d => s.eligible d && compatible (s.slot c) (s.slot d) with ⟨-, hn⟩ | ⟨d, g', k1, k2, k3⟩
  · have := hn c h1
    simp [h2] at this
  · rw [g']
    simp only [Bool.and_eq_true] at k2 k3
    congr 1
    refine s.noLater_antisymm d c (k3 c h1 ⟨h2, compatible_refl _⟩) (h3 d k1 k2.1)

/-! ## Selection (R258, R259): the relation of Safety.lean in terms of the operations -/

theorem State.candidate_eq_tryCandidate (s : State) (c : Nat) : s.candidate c = s.tryCandidate c := rfl

theorem State.awaits_eq_invoke (s : State) (d : Nat) : s.awaits d = s.invoke d := rfl

theorem State.firstSlot_servedBy (s : State) (c : Nat) : s.firstSlot (s.servedBy c) = s.firstDecoder c := rfl

/-- The `TRIED` bits after slots are passed over are those `State.markTried` leaves, bit for bit. -/
theorem State.passedOver_iff (s : State) (x : Nat → Bool) (tr : BitVec 256) :
    s.PassedOver x tr ↔ tr = (s.markTried x).tried := by
  constructor
  · intro h
    refine BitVec.eq_of_getLsbD_eq fun i hi => ?_
    rw [h i hi, State.tried_markTried]
    simp [hi]
  · rintro rfl i hi
    rw [State.tried_markTried]
    simp [hi]

/-- The three ways a selection goes on, as an inversion. -/
theorem SelectsCandidate.inv {s u : State} (h : SelectsCandidate s u) :
    (s.firstSlot s.eligible = none ∧ u = { s with dst := .done }) ∨
      (∃ c, s.firstSlot s.eligible = some c ∧ (s.tryCandidate c).bb0.rows = [] ∧
        SelectsCandidate ((s.tryCandidate c).markTried (s.servedBy c)) u) ∨
      ∃ c d, s.firstSlot s.eligible = some c ∧ (s.tryCandidate c).bb0.rows ≠ [] ∧
        (s.tryCandidate c).firstDecoder c = some d ∧ u = (s.tryCandidate c).invoke d := by
  cases h with
  | finish _ h => exact .inl ⟨h, rfl⟩
  | pass _ _ c tr h e m r =>
    rw [State.passedOver_iff] at m
    subst m
    exact .inr (.inl ⟨c, h, e, r⟩)
  | pick _ c d h f g => exact .inr (.inr ⟨c, d, h, f, g, rfl⟩)

/-- A candidate with an empty buffer is passed over. -/
theorem SelectsCandidate.pass_markTried {s u : State} {c : Nat} (h : s.firstSlot s.eligible = some c)
    (e : (s.tryCandidate c).bb0.rows = []) (r : SelectsCandidate ((s.tryCandidate c).markTried (s.servedBy c)) u) :
    SelectsCandidate s u :=
  .pass s u c _ h e ((s.passedOver_iff _ _).2 rfl) r

/-- Induction over a selection, its turns given by the operations. -/
theorem SelectsCandidate.turns {motive : (s u : State) → SelectsCandidate s u → Prop}
    (finish : ∀ s (h : s.firstSlot s.eligible = none), motive s { s with dst := .done } (.finish s h))
    (pass : ∀ s u c (h : s.firstSlot s.eligible = some c) (e : (s.tryCandidate c).bb0.rows = [])
      (r : SelectsCandidate ((s.tryCandidate c).markTried (s.servedBy c)) u), motive _ _ r →
      motive s u (.pass_markTried h e r))
    (pick : ∀ s c d (h : s.firstSlot s.eligible = some c) (f : (s.tryCandidate c).bb0.rows ≠ [])
      (g : (s.tryCandidate c).firstDecoder c = some d), motive s ((s.tryCandidate c).invoke d) (.pick s c d h f g))
    {s u : State} (h : SelectsCandidate s u) : motive s u h := by
  induction h with
  | finish s h => exact finish s h
  | pass s u c tr h e m r ih =>
    have m' := (s.passedOver_iff _ _).1 m
    subst m'
    exact pass s u c h e r ih
  | pick s c d h f g => exact pick s c d h f g

/-- What a selection answers, without the bound on its turns: soundness. -/
theorem selectCandidate_selects (n : Nat) : ∀ (s u : State), selectCandidate n s = some u → SelectsCandidate s u := by
  induction n with
  | zero => intro s u h; cases h
  | succ n ih =>
    intro s u h
    rw [selectCandidate] at h
    cases hf : s.firstSlot s.eligible with
    | none => rw [hf] at h; cases h; exact .finish s hf
    | some c =>
      rw [hf] at h
      simp only at h
      by_cases he : (s.tryCandidate c).bb0.nrows = 0
      · rw [if_pos he] at h
        exact .pass_markTried hf (List.length_eq_zero_iff.1 he) (ih _ _ h)
      · rw [if_neg he, State.firstDecoder_tryCandidate s c hf] at h
        cases h
        exact .pick s c c hf (fun e => he (List.length_eq_zero_iff.2 e)) (State.firstDecoder_tryCandidate s c hf)

/-- The number of eligible slots. -/
def State.eligibleCount (s : State) : Nat := ((List.range s.reg.length).filter s.eligible).length

theorem State.eligibleCount_le (s : State) : s.eligibleCount ≤ s.reg.length := by
  have := List.length_filter_le s.eligible (List.range s.reg.length)
  simpa [State.eligibleCount] using this

/-- Passing over a candidate leaves fewer eligible slots (R258: "each turn sets at least `TRIED[c]`"). -/
theorem State.eligibleCount_pass (s : State) (c : Nat) (h : s.firstSlot s.eligible = some c) (hr : s.reg.length ≤ 256) :
    ((s.tryCandidate c).markTried fun d => s.eligible d && compatible (s.slot c) (s.slot d)).eligibleCount <
      s.eligibleCount := by
  obtain ⟨hc, he⟩ := s.firstSlot_lt _ c h
  let t := (s.tryCandidate c).markTried fun d => s.eligible d && compatible (s.slot c) (s.slot d)
  have hsub : ∀ i, t.eligible i = true → s.eligible i = true := by
    intro i hi
    rw [State.eligible_iff] at hi ⊢
    refine ⟨hi.1, hi.2.1, ?_⟩
    have := hi.2.2
    rw [State.tried_markTried, Bool.or_eq_false_iff] at this
    exact this.1
  have hnot : t.eligible c = false := by
    rw [Bool.eq_false_iff]
    intro hi
    rw [State.eligible_iff] at hi
    have := hi.2.2
    rw [State.tried_markTried, Bool.or_eq_false_iff] at this
    have h2 := this.2
    simp [he, show c < 256 by omega] at h2
    exact absurd hc (of_decide_eq_false h2)
  have key : ∀ l : List Nat, (l.filter t.eligible).length ≤ (l.filter s.eligible).length ∧
      (c ∈ l → (l.filter t.eligible).length < (l.filter s.eligible).length) := by
    intro l
    induction l with
    | nil => simp
    | cons a l ih =>
      by_cases ha : a = c
      · subst ha
        simp only [List.filter_cons, hnot, he, if_true, List.length_cons, Bool.false_eq_true, if_false]
        omega
      · have hmem : c ∈ a :: l ↔ c ∈ l := by simp [Ne.symm ha]
        rw [hmem]
        by_cases ht : t.eligible a = true
        · simp only [List.filter_cons, ht, hsub a ht, if_true, List.length_cons]
          exact ⟨by omega, fun hl => by have := ih.2 hl; omega⟩
        · by_cases hs : s.eligible a = true
          · simp only [List.filter_cons, ht, hs, if_true, List.length_cons, Bool.false_eq_true, if_false]
            exact ⟨by omega, fun hl => by have := ih.2 hl; omega⟩
          · simp only [List.filter_cons, ht, hs, Bool.false_eq_true, if_false]
            exact ih
  exact (key (List.range s.reg.length)).2 (List.mem_range.2 hc)

/-- A selection ends when there is a turn for each eligible slot and one more (R258: "The loop ends"). -/
theorem selectCandidate_isSome (n : Nat) : ∀ s : State, s.reg.length ≤ 256 → s.eligibleCount < n →
    (selectCandidate n s).isSome = true := by
  induction n with
  | zero => intro s _ h; exact absurd h (Nat.not_lt_zero _)
  | succ n ih =>
    intro s hr hn
    rw [selectCandidate]
    cases hf : s.firstSlot s.eligible with
    | none => rfl
    | some c =>
      simp only
      by_cases he : (s.tryCandidate c).bb0.nrows = 0
      · rw [if_pos he]
        refine ih _ hr ?_
        have := s.eligibleCount_pass c hf hr
        exact Nat.lt_of_lt_of_le this (Nat.lt_succ_iff.1 hn)
      · rw [if_neg he, State.firstDecoder_tryCandidate s c hf]
        rfl

/-- `SelectCandidate()` answers in every registry of at most `REG_SLOTS` descriptors. -/
theorem State.selectCandidate_spec (s : State) (h : s.reg.length ≤ 256) :
    ∃ u, s.selectCandidate = some u ∧ SelectsCandidate s u := by
  have := selectCandidate_isSome (s.reg.length + 1) s h (Nat.lt_succ_of_le s.eligibleCount_le)
  obtain ⟨u, hu⟩ := Option.isSome_iff_exists.1 this
  exact ⟨u, hu, selectCandidate_selects _ _ _ hu⟩

/-- `SelectDecoder()` answers in every registry of at most `REG_SLOTS` descriptors. -/
theorem State.selectDecoder_spec (s : State) (h : s.reg.length ≤ 256) :
    ∃ u, s.selectDecoder = some u ∧ SelectsDecoder s u := by
  unfold State.selectDecoder
  cases hf : s.firstDecoder s.cand.toNat with
  | none =>
    obtain ⟨u, h1, h2⟩ := s.selectCandidate_spec h
    exact ⟨u, h1, .inr ⟨hf, h2⟩⟩
  | some d => exact ⟨_, rfl, .inl ⟨d, hf, rfl⟩⟩

/-- Whatever `SelectDecoder()` answers, it selects. -/
theorem State.selectDecoder_selects (s u : State) (h : s.selectDecoder = some u) : SelectsDecoder s u := by
  unfold State.selectDecoder at h
  cases hf : s.firstDecoder s.cand.toNat with
  | none => rw [hf] at h; exact .inr ⟨hf, selectCandidate_selects _ _ _ h⟩
  | some d => rw [hf] at h; cases h; exact .inl ⟨d, hf, rfl⟩

/-- What a selection leaves: every field but these. -/
theorem SelectsCandidate.frame {s u : State} (h : SelectsCandidate s u) :
    u = { s with bb0 := u.bb0, bb1 := u.bb1, tagV := u.tagV, tagSlot := u.tagSlot, dst := u.dst, cand := u.cand,
                 cur := u.cur, tried := u.tried, flip := u.flip } := by
  induction h with
  | finish s h => rfl
  | pass s u c tr h empty marked rest ih => rw [ih]; rfl
  | pick s c d h filled found => rfl

theorem SelectsDecoder.frame {s u : State} (h : SelectsDecoder s u) :
    u = { s with bb0 := u.bb0, bb1 := u.bb1, tagV := u.tagV, tagSlot := u.tagSlot, dst := u.dst, cand := u.cand,
                 cur := u.cur, tried := u.tried, flip := u.flip } := by
  rcases h with ⟨d, -, rfl⟩ | ⟨-, h⟩
  · rfl
  · exact h.frame

end Sys2Proof.Machine
end

