-- ==== Sys2Proof/Laws/PerInstr.lean ====
section
/-!
SUPPORT. A property of every command as written, one lemma per constructor.
-/

namespace Sys2Proof.Laws

/-- Bits [31:10] of every command word are zero (30_encoding.md R101). -/
def ReservedZero.Statement (i : Instr) : Prop := encode i &&& 0xFFFFFC00#32 = 0#32

theorem ReservedZero.nop : ReservedZero.Statement .nop := rfl

theorem ReservedZero.crc8 : ReservedZero.Statement .crc8 := rfl

theorem ReservedZero.crc8r : ReservedZero.Statement .crc8r := rfl

theorem ReservedZero.crc16 : ReservedZero.Statement .crc16 := rfl

theorem ReservedZero.crc16r : ReservedZero.Statement .crc16r := rfl

theorem ReservedZero.xorb : ReservedZero.Statement .xorb := rfl

theorem ReservedZero.addb : ReservedZero.Statement .addb := rfl

theorem ReservedZero.parb : ReservedZero.Statement .parb := rfl

theorem ReservedZero.lfsr8 : ReservedZero.Statement .lfsr8 := rfl

theorem ReservedZero.lfsr8r : ReservedZero.Statement .lfsr8r := rfl

theorem ReservedZero.lfsr16 : ReservedZero.Statement .lfsr16 := rfl

theorem ReservedZero.lfsr16r : ReservedZero.Statement .lfsr16r := rfl

theorem ReservedZero.refl8 : ReservedZero.Statement .refl8 := rfl

theorem ReservedZero.reflb : ReservedZero.Statement .reflb := rfl

theorem ReservedZero.bbClear (s : Buf) : ReservedZero.Statement (.bbClear s) := by cases s <;> rfl

theorem ReservedZero.bbAddrow (s : Buf) : ReservedZero.Statement (.bbAddrow s) := by cases s <;> rfl

theorem ReservedZero.bbAddbit (s : Buf) : ReservedZero.Statement (.bbAddbit s) := by cases s <;> rfl

theorem ReservedZero.bbAddbits (s : Buf) : ReservedZero.Statement (.bbAddbits s) := by cases s <;> rfl

theorem ReservedZero.bbInfo (s : Buf) : ReservedZero.Statement (.bbInfo s) := by cases s <;> rfl

theorem ReservedZero.bbRowlen (s : Buf) : ReservedZero.Statement (.bbRowlen s) := by cases s <;> rfl

theorem ReservedZero.bbGetbit (s : Buf) : ReservedZero.Statement (.bbGetbit s) := by cases s <;> rfl

theorem ReservedZero.bbInvert (s : Buf) : ReservedZero.Statement (.bbInvert s) := by cases s <;> rfl

theorem ReservedZero.bbSearch (s : Buf) : ReservedZero.Statement (.bbSearch s) := by cases s <;> rfl

theorem ReservedZero.bbExtract (s : Buf) : ReservedZero.Statement (.bbExtract s) := by cases s <;> rfl

theorem ReservedZero.bbCmprows (s : Buf) : ReservedZero.Statement (.bbCmprows s) := by cases s <;> rfl

theorem ReservedZero.bbFindrep (s : Buf) : ReservedZero.Statement (.bbFindrep s) := by cases s <;> rfl

theorem ReservedZero.bbFindpfx (s : Buf) : ReservedZero.Statement (.bbFindpfx s) := by cases s <;> rfl

theorem ReservedZero.bbManch (s d : Buf) : ReservedZero.Statement (.bbManch s d) := by cases s <;> cases d <;> rfl

theorem ReservedZero.bbDmanch (s d : Buf) : ReservedZero.Statement (.bbDmanch s d) := by cases s <;> cases d <;> rfl

theorem ReservedZero.demod : ReservedZero.Statement .demod := rfl

theorem ReservedZero.regInit : ReservedZero.Statement .regInit := rfl

theorem ReservedZero.regAdd : ReservedZero.Statement .regAdd := rfl

theorem ReservedZero.regLock : ReservedZero.Statement .regLock := rfl

theorem ReservedZero.regTeardown : ReservedZero.Statement .regTeardown := rfl

theorem ReservedZero.dspStart : ReservedZero.Statement .dspStart := rfl

theorem ReservedZero.dspReturn : ReservedZero.Statement .dspReturn := rfl

theorem ReservedZero.dspAck : ReservedZero.Statement .dspAck := rfl

end Sys2Proof.Laws
end

