-- ==== Sys2Proof/Laws/Step.lean ====
section
/-!
SUPPORT. Everything a command, an issued word and a step can answer, as case lemmas to cite in place of unfolding.
-/

namespace Sys2Proof.Machine

/-! ## Commands -/

/-- A selection that ended. -/
theorem afterSelect_next (o : Option State) (t : State) (h : afterSelect o = .next t) : ∃ u, o = some u ∧ t = u.accept := by
  cases o <;> cases h; exact ⟨_, rfl, rfl⟩

/-- What `DSP_START` can answer (R260). -/
theorem execDspStart_cases (s t : State) (h : execDspStart s = .next t) :
    (t = s.refuse .state) ∨ (t = s.refuse .operand) ∨ (s.rst = .locked ∧ s.dst ≠ .waitDecode ∧ s.ptLen.toNat ≤ 1024 ∧
      ∃ u, SelectsCandidate s.clearDispatch u ∧ t = u.accept) := by
  simp only [execDspStart] at h
  split at h
  · cases h; exact .inl rfl
  · rename_i h1
    split at h
    · cases h; exact .inr (.inl rfl)
    · rename_i h2
      obtain ⟨u, hu, ht⟩ := afterSelect_next _ _ h
      simp at h1 h2
      exact .inr (.inr ⟨h1.1, h1.2, h2, u, selectCandidate_selects _ _ _ hu, ht⟩)

/-- What an executed `DSP_RETURN` can answer (R263). -/
theorem execDspReturn_cases (s t : State) (hw : s.dst = .waitDecode) (h : execDspReturn s = .next t) :
    let v := normalise s.arg0
    (1 ≤ v.toInt ∧ ∃ u, SelectsCandidate ((s.unflip.recordOutcome v).recordSuccess v) u ∧ t = u.accept) ∨
      (v.toInt < 1 ∧ ∃ u, SelectsDecoder (s.unflip.recordOutcome v) u ∧ t = u.accept) := by
  simp only [execDspReturn] at h
  rw [if_neg (by simpa using hw)] at h
  split at h
  · obtain ⟨u, hu, ht⟩ := afterSelect_next _ _ h
    exact .inl ⟨‹_›, u, selectCandidate_selects _ _ _ hu, ht⟩
  · obtain ⟨u, hu, ht⟩ := afterSelect_next _ _ h
    exact .inr ⟨by omega, u, State.selectDecoder_selects _ _ hu, ht⟩

/-- Every command ends refused, `STATUS` alone changed, or with `STATUS` 0 (R100, R283). -/
theorem exec_refused_or_accepted (i : Instr) (s t : State) (h : exec i s = .next t) :
    (∃ c, t = s.refuse c) ∨ t.status = 0 := by
  have ha : ∀ o t, afterSelect o = .next t → t.status = 0 := by
    intro o t h; cases o <;> cases h; rfl
  have hr : ∀ c, ∃ c', s.refuse c = s.refuse c' := fun c => ⟨c, rfl⟩
  cases i
  case dspStart =>
    simp only [exec, execDspStart] at h
    split at h
    · cases h; exact .inl (hr _)
    · split at h
      · cases h; exact .inl (hr _)
      · exact .inr (ha _ _ h)
  case dspReturn =>
    simp only [exec, execDspReturn] at h
    split at h
    · cases h; exact .inl (hr _)
    · split at h <;> exact .inr (ha _ _ h)
  case bbManch a b =>
    cases h
    rcases s.secondStage_cases a b manchBits with ⟨-, h⟩ | ⟨-, -, h⟩ | ⟨-, -, -, h⟩ | ⟨-, hne, -, h⟩ <;> rw [h]
    · exact .inl (hr _)
    · exact .inl (hr _)
    · exact .inl (hr _)
    · exact .inr rfl
  case bbDmanch a b =>
    cases h
    rcases s.secondStage_cases a b (dmanchBits none) with ⟨-, h⟩ | ⟨-, -, h⟩ | ⟨-, -, -, h⟩ | ⟨-, hne, -, h⟩ <;> rw [h]
    · exact .inl (hr _)
    · exact .inl (hr _)
    · exact .inl (hr _)
    · exact .inr rfl
  all_goals cases h
  all_goals (try simp only [State.onSlice, State.onRow, State.onUnlocked])
  all_goals (repeat' split)
  all_goals first | exact .inr rfl | exact .inl (hr _)

/-! ## The step -/

/-- What an issued word can answer: the command it is the word of, or a refusal (R104). -/
theorem State.issue_cases (s t : State) (w : Word) (h : State.issue w s = .next t) :
    (∃ i, decode w = .ok i ∧ exec i { s with lastCmd := w } = .next t) ∨
      ∃ c, c ≠ 0 ∧ t = { s with lastCmd := w, status := c } := by
  simp only [State.issue] at h
  split at h
  · exact .inl ⟨_, ‹_›, h⟩
  · cases h; exact .inr ⟨1, by decide, rfl⟩
  · cases h; exact .inr ⟨2, by decide, rfl⟩

/-- An aligned word access inside `CMD` is at its address. -/
theorem cmd_address (a : BusAddr) (size : Size) (h : 0x10 ≤ a.toNat ∧ a.toNat < 0x14) (hs : size = .four)
    (ha : a.toNat % size.bytes = 0) : a = 0x10#15 := by
  subst hs
  simp only [Size.bytes] at ha
  apply BitVec.eq_of_toNat_eq
  simp; omega

/-- Everything a step can answer: nothing pending, a read, a `RESET`, or a write, which errs, stores to a register, stores to
`SCR` or `PT`, or issues a command word. -/
theorem step_cases (s t : State) (h : step s = .next t) :
    (t = s ∧ s.requests = []) ∨
    (∃ rest r, (∃ size a, s.requests = .read size a :: rest) ∧ t = { s with requests := rest, resp := r }) ∨
    (∃ rest, s.requests = .reset :: rest ∧ t = { State.reset with requests := rest, evt := s.evt, epoch := s.epoch + 1 }) ∨
    (∃ rest size a v, s.requests = .write size a v :: rest ∧
      (t = { s with requests := rest, resp := .busError } ∨
        (∃ r, ¬ (r = .ptLen ∧ s.dst = .waitDecode) ∧
          t = State.writePage v { s with requests := rest, resp := .done } r ∧ (a.toNat < 0x10 ∨ 0x14 ≤ a.toNat)) ∨
        (((0x400 ≤ a.toNat ∧ a.toNat < 0x800) ∨ (0x2000 ≤ a.toNat ∧ a.toNat < 0x4000 ∧ s.dst ≠ .waitDecode)) ∧
          a.toNat % size.bytes = 0 ∧
          t = State.writeBytesAt a.toNat (leBytes size.bytes v) { s with requests := rest, resp := .done }) ∨
        (size = .four ∧ a = 0x10#15 ∧ State.issue v { s with requests := rest, resp := .done } = .next t))) := by
  cases hr : s.requests with
  | nil => rw [step_idle s hr] at h; cases h; exact .inl ⟨rfl, rfl⟩
  | cons r rest =>
    cases r with
    | reset => rw [step_reset s rest hr] at h; cases h; exact .inr (.inr (.inl ⟨rest, rfl, rfl⟩))
    | read size a =>
      rw [step_read s size a rest hr] at h
      refine .inr (.inl ⟨rest, ?_⟩)
      cases hc : s.busCheck false size a.toNat <;> rw [hc] at h <;> cases h <;> exact ⟨_, ⟨_, _, rfl⟩, rfl⟩
    | write size a v =>
      rw [step_write s size a v rest hr] at h
      refine .inr (.inr (.inr ⟨rest, size, a, v, rfl, ?_⟩))
      rcases s.busCheck_cases true size a.toNat with ⟨-, e, hc⟩ | ⟨hne, tt, ht, hc⟩
      · rw [hc] at h; cases h; exact .inl rfl
      · rw [hc] at h
        rcases targetOf_cases a.toNat with ⟨h', -⟩ | ⟨t', h', hm, h1, h2, h3, h4⟩
        · rw [ht] at h'; cases h'
        · rw [ht] at h'; cases h'
          have hal : a.toNat % size.bytes = 0 := by
            by_contra hx; exact hne (.inr (.inr (.inl hx)))
          cases tt with
          | page r =>
            simp only [State.writeTarget] at h
            split at h
            · rename_i e; subst e
              have := h4.1 rfl
              refine .inr (.inr (.inr ?_))
              have hs : size = .four := by
                by_contra hx; exact hne (.inr (.inl ⟨hx, by omega⟩))
              exact ⟨hs, cmd_address a size this hs hal, h⟩
            · rename_i e; cases h
              refine .inr (.inl ⟨r, ?_, rfl, ?_⟩)
              · rintro ⟨rfl, hd⟩
                exact hne (.inr (.inr (.inr (.inr ⟨rfl, h3.1 rfl, hd⟩))))
              · have : ¬ (0x10 ≤ a.toNat ∧ a.toNat < 0x14) := fun g => e (by have := h4.2 g; cases this; rfl)
                omega
          | scr => cases h; exact .inr (.inr (.inl ⟨.inl (h1.1 rfl), hal, rfl⟩))
          | pt =>
            cases h
            have hf := h3.1 rfl
            have : 0x2000 ≤ a.toNat ∧ a.toNat < 0x4000 := by
              rcases hf with g | g
              · exfalso
                rw [targetOf, if_pos (by omega)] at ht
                simp at ht
              · exact g
            refine .inr (.inr (.inl ⟨.inr ⟨this.1, this.2, fun hd => ?_⟩, hal, rfl⟩))
            exact hne (.inr (.inr (.inr (.inr ⟨rfl, hf, hd⟩))))
          | reg i w => exact absurd (.inr (.inr (.inr (.inl ⟨rfl, h2.1 rfl⟩)))) hne

end Sys2Proof.Machine
end

