-- ==== Sys2Proof/WellFormed.lean ====
section
/-!
DEFINITION. Which commands are legal as written. The syntax leaves one thing to check: in format BB source and destination
must differ (30_encoding.md R107, 43_manchester.md R190). A command that fails the check still decodes, and executing it is
answered by the block (`ERR_BUF`, after the state check), so no theorem about decoding or execution needs this predicate.
-/

namespace Sys2Proof

/-- The check of 30_encoding.md R107 ("In format BB the two must differ"). -/
def Instr.wellFormed : Instr → Bool
  | .bbManch s d => s != d
  | .bbDmanch s d => s != d
  | .nop => true
  | .crc8 => true
  | .crc8r => true
  | .crc16 => true
  | .crc16r => true
  | .xorb => true
  | .addb => true
  | .parb => true
  | .lfsr8 => true
  | .lfsr8r => true
  | .lfsr16 => true
  | .lfsr16r => true
  | .refl8 => true
  | .reflb => true
  | .bbClear _ => true
  | .bbAddrow _ => true
  | .bbAddbit _ => true
  | .bbAddbits _ => true
  | .bbInfo _ => true
  | .bbRowlen _ => true
  | .bbGetbit _ => true
  | .bbInvert _ => true
  | .bbSearch _ => true
  | .bbExtract _ => true
  | .bbCmprows _ => true
  | .bbFindrep _ => true
  | .bbFindpfx _ => true
  | .demod => true
  | .regInit => true
  | .regAdd => true
  | .regLock => true
  | .regTeardown => true
  | .dspStart => true
  | .dspReturn => true
  | .dspAck => true

end Sys2Proof
end

