-- ==== Sys2Proof/Tests/Slice0.lean ====
section
/-!
SUPPORT. Tests: words written out from the encoding tables, vectors of 95_test_vectors.md one step each, and for every statement
with hypotheses a state and operands that meet them.
-/

namespace Sys2Proof.Tests

-- Elaborated in order: many kernel evaluations side by side exhaust the memory the checker allows for thread stacks.
set_option Elab.async false

open Sys2Proof.Machine

/-! ## Helpers -/

/-- The outcome is a next state with a property. -/
def got (o : Result) (p : State → Bool) : Bool :=
  match o with
  | .next t => p t
  | .fault _ => false
  | .refused _ => false

/-- The state after reset with operand registers. -/
def args (a b c d : Word) : State := { State.reset with arg0 := a, arg1 := b, arg2 := c, arg3 := d }

/-- The first `n` bits of bytes: the notation `{n} HH HH` of the spec. -/
def rowOf (n : Nat) (bs : List Byte) : List Bool := (bytesBits bs).take n

/-- A buffer of rows with `OVF` clear. -/
def bufOf (rows : List (List Bool)) : BitBuf := { rows := rows, ovf := false }

/-- Row A of 95_test_vectors.md. -/
def rowA : List Bool := rowOf 68 [0xA5, 0xCF, 0x80, 0x20, 0x17, 0x30, 0x0C, 0xAC, 0x90]

/-- A descriptor of the eight words a demodulation or the dispatch order looks at. -/
def profile (kind priority short long sync gap reset tol : Word) : Desc :=
  { Desc.zero with kind := kind, priority := priority, shortWidth := short, longWidth := long, syncWidth := sync,
                   gapLimit := gap, resetLimit := reset, tolerance := tol }

/-- The PWM profile of 44_demodulator.md R209. -/
def pwm : Desc := profile 0 0 500 1000 0 2000 8000 100

/-- R209's profile with a sync symbol, and its train. -/
def pwmSync : Desc := profile 0 0 500 1000 2000 3000 8000 100

def syncTrain : List (Nat × Nat) :=
  ([500, 1000, 2000, 500, 500, 1000, 2000, 1000].map fun w => (w, 600)) ++ [(500, 9000), (500, 600)]

/-- The PPM profile of R210. -/
def ppm : Desc := profile 1 (-1) 1000 2000 0 3000 9000 200

/-- R210's thirty repeats of the gaps 2000, 1000, 4000, and the closing pair. -/
def repeats : List (Nat × Nat) :=
  ((List.replicate 30 [2000, 1000, 4000]).flatten.map fun g => (500, g)) ++ [(500, 10000)]

/-- The non-return-to-zero and return-to-zero PCM profiles of R212. -/
def nrz : Desc := profile 2 0 100 100 0 1000 5000 20

def rz : Desc := profile 2 0 50 100 0 1000 5000 20

/-- The Manchester and Differential-Manchester profiles of R213 and R214. -/
def manch : Desc := profile 3 0 100 0 0 400 5000 30

def dmanch : Desc := profile 4 0 100 200 0 400 5000 30

/-- A locked registry, and a train in `PT`. -/
def locked (reg : List Desc) (train : List (Nat × Nat)) : State :=
  let t := State.reset.writeBytesAt 0x2000
    (train.flatMap fun x => leBytes 4 (BitVec.ofNat 32 x.1) ++ leBytes 4 (BitVec.ofNat 32 x.2))
  { t with reg := reg, rst := .locked, ptLen := BitVec.ofNat 32 train.length }

/-- Two pulses of the PWM profile, the bits 1 0, as a train. -/
def pulses : List (Nat × Nat) := [(500, 600), (1000, 9000)]

/-- A dispatch in which slot 0 of two equal slots has been invoked on the buffer `10`. -/
def waiting : State :=
  { locked [pwm, pwm] pulses with
    dst := .waitDecode, bb0 := bufOf [[true, false]], tagV := true, tried := 1 }

/-- A dispatch that has ended. -/
def ended : State := { locked [pwm] pulses with dst := .done }

/-- An access as the oldest pending one. -/
def asked (s : State) (r : Request) : State := { s with requests := [r] }

/-- The write of a command word. -/
def cmd (w : Word) : Request := .write .four 0x10#15 w

/-! ## Syntax and encoding -/

/-- 30_encoding.md R107: in format BB source and destination must differ. -/
theorem test_wellFormed_refuses_same_buffer :
    (Instr.bbManch .bb0 .bb0).wellFormed = false ∧ (Instr.bbManch .bb1 .bb1).wellFormed = false ∧
      (Instr.bbDmanch .bb0 .bb0).wellFormed = false ∧ (Instr.bbDmanch .bb1 .bb1).wellFormed = false ∧
      (Instr.bbManch .bb0 .bb1).wellFormed = true ∧ (Instr.bbDmanch .bb1 .bb0).wellFormed = true := by decide

/-- R103, format N: the word is the opcode. -/
theorem test_decode_checksum :
    decode 0b00000000#32 = .ok .nop ∧ decode 0b00010000#32 = .ok .crc8 ∧ decode 0b00010001#32 = .ok .crc8r ∧
      decode 0b00010010#32 = .ok .crc16 ∧ decode 0b00010011#32 = .ok .crc16r ∧ decode 0b00010100#32 = .ok .xorb ∧
      decode 0b00010101#32 = .ok .addb ∧ decode 0b00010110#32 = .ok .parb ∧ decode 0b00011000#32 = .ok .lfsr8 ∧
      decode 0b00011001#32 = .ok .lfsr8r ∧ decode 0b00011010#32 = .ok .lfsr16 ∧ decode 0b00011011#32 = .ok .lfsr16r ∧
      decode 0b00011100#32 = .ok .refl8 ∧ decode 0b00011101#32 = .ok .reflb := by decide

/-- R103, format B: bit 8 is the buffer. -/
theorem test_decode_row_store :
    decode 0b000100000#32 = .ok (.bbClear .bb0) ∧ decode 0b100100000#32 = .ok (.bbClear .bb1) ∧
      decode 0b100100001#32 = .ok (.bbAddrow .bb1) ∧ decode 0b100100010#32 = .ok (.bbAddbit .bb1) ∧
      decode 0b100100011#32 = .ok (.bbAddbits .bb1) ∧ decode 0b100100100#32 = .ok (.bbInfo .bb1) ∧
      decode 0b100100101#32 = .ok (.bbRowlen .bb1) ∧ decode 0b100100110#32 = .ok (.bbGetbit .bb1) ∧
      decode 0b000100111#32 = .ok (.bbInvert .bb0) := by decide

theorem test_decode_search :
    decode 0b100101000#32 = .ok (.bbSearch .bb1) ∧ decode 0b000101001#32 = .ok (.bbExtract .bb0) ∧
      decode 0b100101010#32 = .ok (.bbCmprows .bb1) ∧ decode 0b000101011#32 = .ok (.bbFindrep .bb0) ∧
      decode 0b100101100#32 = .ok (.bbFindpfx .bb1) := by decide

/-- R103, format BB: bit 8 is the source, bit 9 the destination. -/
theorem test_decode_manchester :
    decode 0b1000110000#32 = .ok (.bbManch .bb0 .bb1) ∧ decode 0b0100110000#32 = .ok (.bbManch .bb1 .bb0) ∧
      decode 0b1100110000#32 = .ok (.bbManch .bb1 .bb1) ∧ decode 0b1000110001#32 = .ok (.bbDmanch .bb0 .bb1) ∧
      decode 0b0100110001#32 = .ok (.bbDmanch .bb1 .bb0) := by decide

theorem test_decode_engine :
    decode 0b00111000#32 = .ok .demod ∧ decode 0b01000000#32 = .ok .regInit ∧ decode 0b01000001#32 = .ok .regAdd ∧
      decode 0b01000010#32 = .ok .regLock ∧ decode 0b01000011#32 = .ok .regTeardown ∧
      decode 0b01001000#32 = .ok .dspStart ∧ decode 0b01001001#32 = .ok .dspReturn ∧
      decode 0b01001010#32 = .ok .dspAck := by decide

/-- R104: `ERR_OPCODE` before `ERR_FIELD`; a live bit in another format is a field error. -/
theorem test_decode_rejects :
    decode 0x17#32 = .error .unknownOpcode ∧ decode 0xFFFFFF1E#32 = .error .unknownOpcode ∧
      decode 0x4B#32 = .error .unknownOpcode ∧ decode 0x110#32 = .error .reservedField ∧
      decode 0x220#32 = .error .reservedField ∧ decode 0x430#32 = .error .reservedField ∧
      decode 0x80000000#32 = .error .reservedField := by decide

/-! ## One step of each command (values of 95_test_vectors.md) -/

/-- `NOP` leaves `RES0` and clears `STATUS` (R110). -/
theorem test_nop : got (exec .nop { State.reset with status := 5, res0 := 9 }) (fun t => t.status == 0 && t.res0 == 9) = true := by
  decide

/-- Part 2.1: `CRC8` over `12 34`, upper operand bits ignored. -/
theorem test_crc8 : got (exec .crc8 ((args 0 2 0x00ABCD07 0xFFFFFF00).writeScr 0 [0x12, 0x34])) (fun t => t.res0 == 0xF1) = true := by
  decide +kernel

theorem test_crc8r : got (exec .crc8r ((args 0 2 0x07 0).writeScr 0 [0x12, 0x34])) (fun t => t.res0 == 0xEC) = true := by
  decide +kernel

theorem test_crc16 : got (exec .crc16 ((args 0 1 0x1021 0).writeScr 0 [0x80])) (fun t => t.res0 == 0x9188) = true := by
  decide +kernel

theorem test_crc16r : got (exec .crc16r ((args 0 2 0x8005 0xFFFF).writeScr 0 [0x12, 0x34])) (fun t => t.res0 == 0xC70C) = true := by
  decide +kernel

/-- Part 2.1: `a = 1025, n = 0` is refused and the sum is not reduced modulo 2^32. -/
theorem test_crc_range :
    got (exec .crc8 (args 1025 0 7 0)) (fun t => t.status == 6) = true ∧
      got (exec .crc16r (args 1 0xFFFFFFFF 7 0)) (fun t => t.status == 6) = true := by decide +kernel

theorem test_xorb : got (exec .xorb ((args 0 3 0 0).writeScr 0 [0x12, 0x34, 0xFF])) (fun t => t.res0 == 0xD9) = true := by
  decide +kernel

theorem test_addb : got (exec .addb ((args 0 3 0 0).writeScr 0 [0x12, 0x34, 0xFF])) (fun t => t.res0 == 0x145) = true := by
  decide +kernel

theorem test_parb : got (exec .parb ((args 0 3 0 0).writeScr 0 [0x12, 0x34, 0xFF])) (fun t => t.res0 == 1) = true := by
  decide +kernel

theorem test_lfsr8 : got (exec .lfsr8 ((args 0 2 0x98 0x3E).writeScr 0 [0x12, 0x34]))
    (fun t => t.res0 == 0xCD && t.res1 == 0x52) = true := by decide +kernel

theorem test_lfsr8r : got (exec .lfsr8r ((args 0 2 0x31 0xF4).writeScr 0 [0x12, 0x34]))
    (fun t => t.res0 == 0xBC && t.res1 == 0x9B) = true := by decide +kernel

theorem test_lfsr16 : got (exec .lfsr16 ((args 0 2 0x8810 0xABF9).writeScr 0 [0x12, 0x34]))
    (fun t => t.res0 == 0x7EB5 && t.res1 == 0x22D0) = true := by decide +kernel

theorem test_lfsr16r : got (exec .lfsr16r ((args 0 2 0x1021 0x9FD5).writeScr 0 [0x12, 0x34]))
    (fun t => t.res0 == 0x7093 && t.res1 == 0x930D) = true := by decide +kernel

theorem test_refl8 : got (exec .refl8 (args 0x1CF 0 0 0)) (fun t => t.res0 == 0xF3) = true := by decide +kernel

theorem test_reflb : got (exec .reflb ((args 0 3 0 0).writeScr 0 [0x01, 0xCF, 0xA5]))
    (fun t => t.mem == [(0x400, 0x80), (0x401, 0xF3), (0x402, 0xA5)]) = true := by decide +kernel

/-- R155: clearing `BB0` clears `TAG_V`. -/
theorem test_clear : got (exec (.bbClear .bb0) { State.reset with bb0 := { rows := [rowA], ovf := true }, tagV := true })
    (fun t => t.bb0 == BitBuf.empty && !t.tagV) = true := by decide +kernel

/-- Part 2.2: the 26th row sets `OVF`. -/
theorem test_addrow : got (exec (.bbAddrow .bb1) { State.reset with bb1 := bufOf (List.replicate 25 []) })
    (fun t => t.bb1.ovf && (t.bb1.nrows == 25 && t.status == 0)) = true := by decide +kernel

theorem test_addbit : got (exec (.bbAddbit .bb1) { args 3 0 0 0 with bb1 := bufOf [[true, false]] })
    (fun t => t.bb1 == bufOf [rowOf 3 [0xA0]]) = true := by decide +kernel

theorem test_addbits : got (exec (.bbAddbits .bb1) ((args 0 12 0 0).writeScr 0 [0xA5, 0xC7]))
    (fun t => t.bb1 == bufOf [rowOf 12 [0xA5, 0xC0]]) = true := by decide +kernel

/-- Part 2.2: `BB_ADDBITS.1 1023, 9` leaves `SCR`. -/
theorem test_addbits_range : got (exec (.bbAddbits .bb1) (args 1023 9 0 0)) (fun t => t.status == 6) = true := by
  decide +kernel

theorem test_info : got (exec (.bbInfo .bb0) { State.reset with bb0 := { rows := [[], [], []], ovf := true } })
    (fun t => t.res0 == 3 && t.res1 == 1) = true := by decide +kernel

theorem test_rowlen : got (exec (.bbRowlen .bb0) { State.reset with bb0 := bufOf [rowA] }) (fun t => t.res0 == 68) = true ∧
    got (exec (.bbRowlen .bb0) { args 1 0 0 0 with bb0 := bufOf [rowA] }) (fun t => t.status == 5) = true := by
  decide +kernel

theorem test_getbit : got (exec (.bbGetbit .bb0) { args 0 67 0 0 with bb0 := bufOf [rowA] }) (fun t => t.res0 == 1) = true ∧
    got (exec (.bbGetbit .bb0) { args 0 0xFFFFFFFF 0 0 with bb0 := bufOf [rowA], res0 := 7 })
      (fun t => t.res0 == 0 && t.status == 0) = true := by decide +kernel

theorem test_invert : got (exec (.bbInvert .bb0) { State.reset with bb0 := bufOf [rowA] })
    (fun t => t.bb0 == bufOf [rowOf 68 [0x5A, 0x30, 0x7F, 0xDF, 0xE8, 0xCF, 0xF3, 0x53, 0x60]] && !t.flip) = true := by
  decide +kernel

/-- Part 2.3: a match off a byte boundary, and the zeros beyond the row that do not match. -/
theorem test_search :
    got (exec (.bbSearch .bb0) (State.writeScr 0 [0x5C] { args 0 0 0 8 with bb0 := bufOf [rowA] }))
        (fun t => t.res0 == 4 && t.res1 == 68) = true ∧
      got (exec (.bbSearch .bb0) (State.writeScr 0 [0x00] { args 0 67 0 1 with bb0 := bufOf [rowA] }))
        (fun t => t.res0 == 68) = true := by decide +kernel

/-- Part 2.3: `off 60, n 16` writes `C9 00`. -/
theorem test_extract : got (exec (.bbExtract .bb0) { args 0 60 0 16 with bb0 := bufOf [rowA] })
    (fun t => t.mem == [(0x400, 0xC9), (0x401, 0x00)]) = true := by decide +kernel

/-- R173: `n = 14` gives 1, `n = 15` gives 0. -/
theorem test_cmprows :
    got (exec (.bbCmprows .bb0) { args 0 1 14 0 with bb0 := bufOf [rowOf 20 [0xA5, 0xCF, 0x80], rowOf 14 [0xA5, 0xCC]] })
        (fun t => t.res0 == 1) = true ∧
      got (exec (.bbCmprows .bb0) { args 0 1 15 0 with bb0 := bufOf [rowOf 20 [0xA5, 0xCF, 0x80], rowOf 14 [0xA5, 0xCC]] })
        (fun t => t.res0 == 0) = true := by decide +kernel

/-- R176: three rows of which the third is the first cut short. -/
def cutRows : BitBuf := bufOf [rowOf 20 [0xA5, 0xCF, 0x80], rowOf 20 [0xA5, 0xCF, 0x80], rowOf 14 [0xA5, 0xCC]]

theorem test_findrep : got (exec (.bbFindrep .bb0) { args 3 12 0 0 with bb0 := cutRows }) (fun t => t.res0 == 0xFFFFFFFF) = true := by
  decide +kernel

theorem test_findpfx : got (exec (.bbFindpfx .bb0) { args 3 16 0 0 with bb0 := cutRows }) (fun t => t.res0 == 2) = true := by
  decide +kernel

/-- R191: source `{16} 65 A6`, limit 3. -/
theorem test_manch : got (exec (.bbManch .bb0 .bb1) { args 0 0 3 0 with bb0 := bufOf [rowOf 16 [0x65, 0xA6]] })
    (fun t => t.bb1 == bufOf [rowOf 3 [0xA0]] && (t.res0 == 6 && t.res1 == 3)) = true := by decide +kernel

/-- R192: source `{8} DC`, a clock violation at the third cell. -/
theorem test_dmanch : got (exec (.bbDmanch .bb0 .bb1) { args 0 0 64 0 with bb0 := bufOf [rowOf 8 [0xDC]] })
    (fun t => t.bb1 == bufOf [rowOf 2 [0x80]] && (t.res0 == 4 && t.res1 == 2)) = true := by decide +kernel

theorem test_demod : got (exec .demod (locked [pwm] pulses))
    (fun t => t.bb0 == bufOf [rowOf 2 [0x80]] && (t.tagV && t.res0 == 1)) = true := by decide +kernel

/-- Examples of R209, R210, R213 and R214, the demodulation alone. -/
theorem test_demod_pwm : (demodTrain pwm [(500, 600), (1000, 600), (601, 600), (399, 600), (400, 600), (600, 600), (900, 600),
      (1100, 600), (1101, 9000)]).buf = bufOf [rowOf 2 [0x80], rowOf 4 [0xC0]] := by decide +kernel

theorem test_demod_ppm : (demodTrain ppm [(500, 2000), (500, 1000), (500, 2000), (500, 2000), (500, 1500), (500, 1000),
      (500, 2000), (500, 10000)]).buf = bufOf [rowOf 4 [0xB0], rowOf 2 [0x40]] := by decide +kernel

/-- R209: a sync symbol starts the message and the next row; nothing after the reset gap is looked at. -/
theorem test_demod_sync : (demodTrain pwmSync syncTrain).buf = bufOf [rowOf 3 [0xC0], rowOf 2 [0x40]] := by decide +kernel

/-- R210: thirty repeats of a two-bit message fill the 25 rows and set `OVF`. -/
theorem test_demod_overflow : (demodTrain ppm repeats).buf = { rows := List.replicate 25 [true, false], ovf := true } := by
  decide +kernel

/-- Examples of R212. -/
theorem test_demod_pcm :
    (demodTrain nrz [(100, 100), (200, 300), (100, 110), (300, 6000)]).buf = bufOf [rowOf 12 [0xB1, 0x70]] ∧
      (demodTrain rz [(50, 50), (90, 50), (50, 100), (50, 50), (50, 6000)]).buf =
        bufOf [rowOf 1 [0x80], rowOf 1 [0x80], rowOf 2 [0xC0]] := by decide +kernel

theorem test_demod_manchester : (demodTrain manch [(100, 100), (300, 100), (100, 200), (100, 6000)]).buf =
    bufOf [rowOf 1 [0x00], rowOf 2 [0x40]] := by decide +kernel

theorem test_demod_diff_manchester : (demodTrain dmanch [(200, 100), (200, 100), (100, 100), (100, 6000)]).buf =
    bufOf [rowOf 2 [0x80], rowOf 2 [0x00]] := by decide +kernel

theorem test_regInit : got (exec .regInit { State.reset with reg := [pwm] })
    (fun t => t.reg == [] && t.dstate == 4) = true := by decide +kernel

/-- Part 3, P5 line 7 and P3 line 4: an invalid and a valid descriptor. -/
theorem test_regAdd :
    got (exec .regAdd { State.reset with rst := .opened }) (fun t => t.status == 7) = true ∧
      got (exec .regAdd { State.reset with rst := .opened, reg := [pwm], desc := pwm })
        (fun t => t.res0 == 1 && t.reg == [pwm, pwm]) = true := by decide +kernel

theorem test_regLock : got (exec .regLock { State.reset with rst := .opened, reg := [pwm] })
    (fun t => t.res0 == 1 && t.dstate == 8) = true := by decide +kernel

theorem test_regTeardown : got (exec .regTeardown (locked [pwm] [])) (fun t => t.dstate == 0 && t.nreg == 0) = true := by
  decide +kernel

/-- Part 3, P3 line 11, on a shorter train: slot 2 of lower priority yields no row, slot 0 is offered. -/
theorem test_dspStart : got (exec .dspStart (locked [pwm, pwm, ppm] pulses))
    (fun t => t.dstate == 9 && (t.bb0tag == 0x80000000 && t.bb0 == bufOf [[true, false]])) = true := by decide +kernel

/-- R260: an empty registry ends at once in `DONE`. -/
theorem test_dspStart_empty : got (exec .dspStart (locked [] [])) (fun t => t.dstate == 10 && t.evt == []) = true := by
  decide +kernel

/-- Part 3, P3 line 16: a failed check goes on to slot 1, with `BB0` restored. -/
theorem test_dspReturn_fail :
    got (exec .dspReturn { waiting with arg0 := -3, bb0 := bufOf [[false, true]], flip := true })
      (fun t => t.dstate == 0x109 && (t.bb0 == bufOf [[true, false]] && (t.natt == 1 && t.last == 0xFFFFFFFD))) = true := by
  decide +kernel

/-- Part 3, P3 line 21: after a success the equal slot is never invoked. -/
theorem test_dspReturn_success : got (exec .dspReturn { waiting with arg0 := 1 })
    (fun t => t.dstate == 0xA && (t.nrec == 1 && (t.matchWord == 0x80000000 && t.evt == [⟨0, 0, 1, 0⟩]))) = true := by
  decide +kernel

theorem test_dspAck : got (exec .dspAck ended) (fun t => t.dstate == 8 && t.status == 0) = true := by decide +kernel

/-- Part 3, P5: the codes 1 and 2. -/
theorem test_issue_refusals :
    got (step (asked State.reset (cmd 0x450))) (fun t => t.status == 1 && t.lastCmd == 0x450) = true ∧
      got (step (asked State.reset (cmd 0x100))) (fun t => t.status == 2) = true := by decide +kernel

/-- 20_memory.md R72: the bytes 12 34 read as the half word 0x3412. -/
theorem test_little_endian :
    got (step (asked (State.reset.writeScr 2 [0x12, 0x34]) (.read .two 0x402))) (fun t => t.resp == .data 0x3412) = true := by
  decide +kernel

/-- R45: a slot at or above `NREG` reads 0; R76: it cannot be written. -/
theorem test_registry_window :
    got (step (asked (locked [pwm] []) (.read .four 0x4008))) (fun t => t.resp == .data 500) = true ∧
      got (step (asked (locked [pwm] []) (.read .four 0x4048))) (fun t => t.resp == .data 0) = true ∧
      got (step (asked (locked [pwm] []) (.write .four 0x4008 1))) (fun t => t.resp == .busError && t.reg == [pwm]) = true := by
  decide +kernel

/-- `withFetchWord` presents the word to the next step. -/
theorem test_withFetchWord : got (step (State.reset.withFetchWord 32 0x48)) (fun t => t.status == 3 && t.lastCmd == 0x48) = true := by
  decide +kernel

/-! ## Witnesses: for each statement with hypotheses, a state and operands that meet them -/

/-- The cases of `IssuedWordsRunOrAreRefused`: opcode 0x4B, a set `BS` bit on `NOP`, and a word with both buffer bits. -/
theorem test_witness_IssuedWordsRunOrAreRefused :
    (0x4B#32).toNat % 256 ∉ definedOpcodes ∧
      ((0x100#32).toNat % 256 ∈ definedOpcodes ∧ ∀ i, encode i ≠ 0x100#32) ∧
      encode (.bbManch .bb1 .bb1) = 0x330#32 := by
  refine ⟨by decide, ⟨by decide, fun i => ?_⟩, by decide⟩
  cases i <;> first
    | decide
    | (rename_i b; cases b <;> decide)
    | (rename_i b d; cases b <;> cases d <;> decide)

theorem test_witness_StepRunsDecodedCommand :
    (asked State.reset (cmd 0x127)).requests = .write .four 0x10#15 0x127#32 :: [] ∧
      decode 0x127#32 = .ok (.bbInvert .bb1) := by decide

/-- The first and last addresses of each range `FirstReadsAfterReset` reads as 0. -/
theorem test_witness_FirstReadsAfterReset :
    ∀ a ∈ [0x10#15, 0x54#15, 0x80#15, 0xBC#15, 0x4000#15, 0x7FFC#15],
      a.toNat % 4 = 0 ∧ mapped a.toNat ∧ 0x10 ≤ a.toNat ∧ ¬ (0x400 ≤ a.toNat ∧ a.toNat < 0x4000) := by
  simp [mapped]

/-- One access for each test of R76, at the edges, and accesses for which none holds. -/
theorem test_witness_BusErrorChangesNothing :
    State.reset.accessErrs false .four 0x58 ∧ State.reset.accessErrs false .four 0x800 ∧
      State.reset.accessErrs false .two 0x2000 ∧ State.reset.accessErrs false .four 0x7FE ∧
      State.reset.accessErrs true .four 0x0C ∧ State.reset.accessErrs true .four 0x7FFC ∧
      waiting.accessErrs true .four 0x30 ∧ waiting.accessErrs true .four 0x3FFC ∧
      ¬ waiting.accessErrs false .four 0x3FFC ∧ ¬ State.reset.accessErrs true .one 0x7FF ∧
      ¬ State.reset.accessErrs true .four 0x10 ∧
      got (step (asked State.reset (.write .one 0x7FF 5))) (fun t => t.resp == .done) = true := by
  refine ⟨?_, ?_, ?_, ?_, ?_, ?_, ?_, ?_, ?_, ?_, ?_, by decide +kernel⟩ <;>
    simp [State.accessErrs, mapped, writeProtected, Size.bytes, State.reset, waiting]

/-- Both regions of `MemoryWriteThenReadReturnsData`, at their ends, and each size. -/
theorem test_witness_MemoryWriteThenReadReturnsData :
    let scr (a : BusAddr) (size : Size) : Prop := (0x400 ≤ a.toNat ∧ a.toNat < 0x800) ∧ a.toNat % size.bytes = 0
    let pt (a : BusAddr) : Prop := (0x2000 ≤ a.toNat ∧ a.toNat < 0x4000) ∧ a.toNat % Size.four.bytes = 0
    scr 0x400 .one ∧ scr 0x7FF .one ∧ scr 0x7FE .two ∧ scr 0x7FC .four ∧ pt 0x2000 ∧ pt 0x3FFC ∧
      State.reset.dst ≠ .waitDecode := by decide

theorem test_witness_RegisterReadsReturnState : (0 < 16 ∧ 15 < 16) ∧ (0 < 256 ∧ 255 < 256) := by decide

theorem test_witness_RegisterWritesStoreData : ended.dst ≠ .waitDecode ∧ 0 < 16 ∧ 15 < 16 := by decide

/-- Every code `CheckOrderDecidesStatus` can answer comes from a command that answers a next state. -/
theorem test_witness_CheckOrderDecidesStatus :
    got (exec .nop State.reset) (fun t => t.status == 0) = true ∧
      got (exec .dspStart State.reset) (fun t => t.status == 3) = true ∧
      got (exec (.bbManch .bb0 .bb0) State.reset) (fun t => t.status == 4) = true ∧
      got (exec (.bbExtract .bb0) (args 0 0 2000 8)) (fun t => t.status == 5) = true ∧
      got (exec (.bbExtract .bb0) { args 0 0 2000 8 with bb0 := bufOf [[]] }) (fun t => t.status == 6) = true ∧
      got (exec .regAdd { State.reset with rst := .opened }) (fun t => t.status == 7) = true ∧
      got (exec .regAdd { State.reset with rst := .opened, desc := pwm, reg := List.replicate 256 pwm })
        (fun t => t.status == 8) = true := by decide +kernel

theorem test_witness_RefusedCommandChangesNothing :
    got (step (asked waiting (cmd 0x20))) (fun t => t.status == 3) = true ∧
      (got (exec .nop { State.reset with status := 8 }) (fun _ => true) = true ∧ checkCode .nop State.reset = 0) := by
  decide +kernel

/-- A command that changes each piece of state `CommandsChangeOnlyTheirState` speaks of. -/
theorem test_witness_CommandsChangeOnlyTheirState :
    got (exec .reflb ((args 0 1 0 0).writeScr 0 [1])) (fun t => t.byteAt 0x400 == 0x80) = true ∧
      got (exec (.bbInfo .bb1) { State.reset with bb1 := { rows := [[]], ovf := true } })
        (fun t => t.res0 == 1 && t.res1 == 1) = true ∧
      got (exec (.bbAddrow .bb0) State.reset) (fun t => t.bb0 != State.reset.bb0) = true ∧
      got (exec (.bbAddrow .bb1) State.reset) (fun t => t.bb1 != State.reset.bb1) = true ∧
      got (exec .demod (locked [pwm] [])) (fun t => t.tagV) = true ∧
      got (exec .regInit (locked [pwm] [])) (fun t => t.reg == [] && t.rst == .opened) = true ∧
      got (exec (.bbInvert .bb0) waiting) (fun t => t.flip) = true ∧
      got (exec .dspAck ended) (fun t => t.dst == .idle) = true ∧
      got (exec .dspReturn { waiting with arg0 := 1 })
        (fun t => t.natt == 1 && (t.tried != waiting.tried && t.evt != [])) = true := by decide +kernel

theorem test_witness_AwaitedDispatchIsProtected :
    waiting.dst = .waitDecode ∧ waiting.rst = .locked ∧ got (exec (.bbInvert .bb0) waiting) (fun t => t.status == 0) = true ∧
      got (exec .nop waiting) (fun t => t.status == 0) = true ∧ Instr.bbInvert .bb0 ≠ .dspReturn ∧
      Instr.nop ≠ .dspReturn := by decide +kernel

theorem test_witness_OneEventPerExecutedReturn :
    (got (step (asked waiting (cmd 0x49))) (fun _ => true) = true ∧
        (asked waiting (cmd 0x49)).requests.head? = some (.write .four 0x10#15 0x49#32) ∧ waiting.dst = .waitDecode) ∧
      got (step (asked State.reset (cmd 0x49))) (fun t => t.evt == []) = true ∧ State.reset.dst ≠ .waitDecode := by
  decide +kernel

/-- One step for each event of the transition table, and one that changes `DST`. -/
theorem test_witness_DispatcherStateTransitions :
    got (step (asked waiting .reset)) (fun t => t.dst == .idle) = true ∧
      got (step (asked ended (cmd 0x48))) (fun t => t.status == 0 && t.dst == .waitDecode) = true ∧
      got (step (asked (locked [] []) (cmd 0x48))) (fun t => t.status == 0 && t.dst == .done) = true ∧
      got (step (asked waiting (cmd 0x49))) (fun t => t.status == 0 && t.cur == 1) = true ∧
      got (step (asked ended (cmd 0x4A))) (fun t => t.status == 0 && t.dst == .idle) = true := by decide +kernel

theorem test_witness_NopClearsStatusOnly : (0x100#32).toNat % 256 = 0 ∧ 0x100#32 ≠ 0 := by decide

/-- The slice condition of `CrcCommandsDivideTheMessage`, `FoldCommandsReduceTheSlice`, `LfsrDigestIsSumOfKeys`,
`ReflectedDigestIsMirrorImage` and `ReflbReversesSliceInPlace`, at both ends, and its opposite. -/
theorem test_witness_slices :
    ((args 1024 0 0 0).arg0.toNat + (args 1024 0 0 0).arg1.toNat ≤ 1024) ∧
      ((args 0 1024 7 0).arg0.toNat + (args 0 1024 7 0).arg1.toNat ≤ 1024) ∧
      1024 < (args 1025 0 0 0).arg0.toNat + (args 1025 0 0 0).arg1.toNat := by decide

theorem test_witness_EmptySliceGivesIdentity : (args 1024 0 7 1).arg1 = 0 ∧ (args 1024 0 7 1).arg0.toNat ≤ 1024 := by decide

theorem test_witness_BufferClearAndRowOpening :
    waiting.dst = .waitDecode ∧ State.reset.dst ≠ .waitDecode ∧ BitBuf.ovf { rows := [], ovf := true } = true ∧
      ((bufOf (List.replicate 25 [])).ovf = false ∧ (bufOf (List.replicate 25 [])).rows.length = 25) ∧
      ((bufOf (List.replicate 24 [])).ovf = false ∧ (bufOf (List.replicate 24 [])).rows.length ≠ 25) := by decide

/-- The three buffers of `AddbitAppendsToCurrentRow` and `AddbitsAppendsSliceBits`, the row full or with one place. -/
theorem test_witness_AddbitAppendsToCurrentRow :
    State.reset.bb1.rows = [] ∧ State.reset.bb1.ovf = false ∧ (bufOf [[], [true]]).rows = [[]] ++ [[true]] ∧
      (List.replicate 4096 true).length = 4096 ∧ (List.replicate 4095 true).length ≠ 4096 :=
  ⟨rfl, rfl, rfl, List.length_replicate, by rw [List.length_replicate]; decide⟩

theorem test_witness_AddbitsAppendsSliceBits :
    1024 < (args 1023 9 0 0).arg0.toNat + ((args 1023 9 0 0).arg1.toNat + 7) / 8 ∧
      (args 1023 8 0 0).arg0.toNat + ((args 1023 8 0 0).arg1.toNat + 7) / 8 ≤ 1024 ∧ (args 1023 8 0 0).arg1 ≠ 0 ∧
      (args 1024 0 0 0).arg0.toNat + ((args 1024 0 0 0).arg1.toNat + 7) / 8 ≤ 1024 ∧ (args 1024 0 0 0).arg1 = 0 ∧
      (bufOf [[], [true]]).rows = [[]] ++ [[true]] ∧ [true].length ≤ 4096 := by decide

theorem test_witness_RowQueriesAnswer :
    (bufOf [rowA]).rows.length ≤ 1 ∧ (bufOf [rowA]).rows[0]? = some rowA ∧ rowA.length ≤ 68 ∧ rowA[67]? = some true ∧
      (bufOf [rowA]).fits := by
  refine ⟨by decide, by decide, by decide, by decide, ⟨by decide, ?_, by simp [bufOf]⟩⟩
  simp only [bufOf, List.forall_mem_singleton]
  decide

theorem test_witness_InvertFlipsEveryBit : 67 < (bufOf [rowA]).len 0 ∧ (bufOf [rowA]).len 0 ≤ 68 := by decide

theorem test_witness_SearchFindsLeastOffset :
    (bufOf [rowA]).rows.length ≤ (args 1 0 0 8).arg0.toNat ∧ (args 0 0 0 8).arg0.toNat < (bufOf [rowA]).rows.length ∧
      1024 < (args 0 0 1024 8).arg2.toNat + ((args 0 0 1024 8).arg3.toNat + 7) / 8 ∧
      (args 0 0 1023 8).arg2.toNat + ((args 0 0 1023 8).arg3.toNat + 7) / 8 ≤ 1024 := by decide

theorem test_witness_ExtractStoresRowBits :
    (bufOf [rowA]).rows.length ≤ (args 1 0 0 16).arg0.toNat ∧ (args 0 60 1022 16).arg0.toNat < (bufOf [rowA]).rows.length ∧
      1024 < (args 0 0 1023 9).arg2.toNat + ((args 0 0 1023 9).arg3.toNat + 7) / 8 ∧
      (args 0 60 1022 16).arg2.toNat + ((args 0 60 1022 16).arg3.toNat + 7) / 8 ≤ 1024 ∧
      1 < ((args 0 60 1022 16).arg3.toNat + 7) / 8 := by decide

/-- Rows 0 and 2 of the cut rows agree on 14 bits and not on 15. -/
theorem test_witness_CompareRowsIsPrefixEquality :
    cutRows.rows.length ≤ 3 ∧ (0 < cutRows.rows.length ∧ 2 < cutRows.rows.length) ∧
      (14 ≤ cutRows.len 0 ∧ 14 ≤ cutRows.len 2 ∧ ∀ k, k < 14 → cutRows.bit 0 k = cutRows.bit 2 k) ∧
      ¬ 15 ≤ cutRows.len 2 := by decide

theorem test_witness_ExtractionRoundTrip :
    let s : State := { args 0 60 0 4096 with bb0 := bufOf [rowA] }
    Buf.bb0 ≠ .bb1 ∧ s.arg0.toNat < (s.buf .bb0).rows.length ∧ s.arg2 = 0 ∧ s.arg3 ≠ 0 ∧ s.arg3.toNat ≤ 4096 := by decide

/-- The branches of `ManchesterDecodesPairs` and `DifferentialManchesterDecodesCells`. -/
theorem test_witness_ManchesterDecodesPairs :
    waiting.dst = .waitDecode ∧ State.reset.dst ≠ .waitDecode ∧ Buf.bb0 ≠ .bb1 ∧
      (bufOf [rowA]).rows.length ≤ (args 1 0 0 0).arg0.toNat ∧ (args 0 0 0 0).arg0.toNat < (bufOf [rowA]).rows.length := by
  decide

/-- Messages of the greatest length `LineCodeRoundTrip` takes and of length 0, with their rows. -/
theorem test_witness_LineCodeRoundTrip :
    (Buf.bb0 ≠ .bb1 ∧ State.reset.buf .bb1 = { rows := [], ovf := false } ∧ (List.replicate 2048 true).length ≤ 2048 ∧
        (args 0 0 2048 0).arg1 = 0 ∧ (args 0 0 2048 0).arg2.toNat = (List.replicate 2048 true).length) ∧
      (bufOf [menc [true, false]]).rows[0]? = some [false, true, true, false] ∧
      (bufOf [dmenc false [true, false]]).rows[0]? = some [true, true, false, true] ∧ menc [] = [] := by
  refine ⟨⟨by decide, rfl, by rw [List.length_replicate], rfl, by rw [List.length_replicate]; rfl⟩, rfl, rfl, rfl⟩

theorem test_witness_DemodRunsOneProfile :
    State.reset.rst ≠ .locked ∧ waiting.dst = .waitDecode ∧
      (let s := locked [pwm] pulses
       s.rst = .locked ∧ s.dst ≠ .waitDecode ∧ s.ptLen.toNat ≤ 1024 ∧ 1 < s.ptLen.toNat ∧ s.reg[s.arg0.toNat]? = some pwm ∧
         s.reg.length ≤ (1#32).toNat ∧ 1024 < (1025#32).toNat) := by decide

theorem test_witness_DemodulationIgnoresOtherWords :
    pwm.SameTimings { pwm with kind := 0x110, priority := 7, decodeFn := 0x1001 } ∧ nrz.coding = 2#3 ∧
      manch.coding = 3#3 ∧ dmanch.coding = 4#3 := by
  refine ⟨⟨by decide, rfl, rfl, rfl, rfl, rfl, rfl⟩, by decide, by decide, by decide⟩

theorem test_witness_ResetGapEndsDemodulation : pwm.resetLimit.toNat < 8001 := by decide

/-- A width at the tolerance edge of the short reference, and the least divisor. -/
theorem test_witness_ClassifyPicksUniqueNearest : Sym.short ≠ .none ∧ classify pwm 600 = .short ∧ classify pwm 601 = .none ∧ 1 ≤ 1 := by
  decide

/-- Profiles of both codings, and what the reference gives for the examples of R209 and R210. -/
theorem test_witness_PwmAndPpmLeaveTheRowsOfTheirMarks :
    (pwmSync.kind.toNat % 8 = 0 ∧ ppm.kind.toNat % 8 = 1) ∧
      pwmSync.rowsOfMarks (pwmMarks pwmSync syncTrain) = [rowOf 3 [0xC0], rowOf 2 [0x40]] ∧
      pwm.rowsOfMarks (pwmMarks pwm [(500, 600), (601, 600), (399, 3000), (400, 3000), (1000, 600)]) = [[true], [true], [false]] ∧
      stored (ppm.rowsOfMarks (ppmMarks ppm repeats)) = { rows := List.replicate 25 [true, false], ovf := true } := by
  decide +kernel

/-- Profiles of the three codings, and what the reference gives for examples of R212 to R214: aborts, a boundary gap, an open
half-bit closed. -/
theorem test_witness_PcmAndManchesterLeaveTheRowsTheyStandFor :
    (nrz.kind.toNat % 8 = 2 ∧ manch.kind.toNat % 8 = 3 ∧ dmanch.kind.toNat % 8 = 4) ∧
      rowsFrom [] (pcmOutputs nrz [(100, 100), (100, 250), (100, 100), (100, 1500), (200, 40), (100, 6000)]) =
        [rowOf 3 [0xA0], rowOf 3 [0xA0], rowOf 2 [0xC0], rowOf 1 [0x80]] ∧
      rowsFrom [] (pcmOutputs rz [(50, 50), (90, 50), (50, 100), (50, 50), (50, 6000)]) =
        [rowOf 1 [0x80], rowOf 1 [0x80], rowOf 2 [0xC0]] ∧
      manch.rowsOfChips false [(200, 100), (100, 6000)] = [rowOf 1 [0x00]] ∧
      dmanch.rowsOfChips true [(200, 100), (200, 100), (100, 100), (100, 6000)] = [rowOf 2 [0x80], rowOf 2 [0x00]] := by
  decide +kernel

/-- A PWM train of the bits 1 0 with a reset gap last, and a PPM train of them with gaps at the limit and a boundary gap. -/
theorem test_witness_PulseWidthAndPositionTrainsDecode :
    (pwm.syncWidth = 0 ∧ pwm.coding = 0#3 ∧ (∀ x ∈ [(500, 2000), (1000, 9000)].dropLast, pwm.InsideLimits x.2) ∧
        [(500, 2000), (1000, 9000)].map (fun x => classify pwm x.1) =
          [true, false].map (fun v => if v then Sym.short else Sym.long)) ∧
      ppm.syncWidth = 0 ∧ ppm.coding = 1#3 ∧ (∀ x ∈ [(500, 2200), (500, 800)], ppm.InsideLimits x.2) ∧
        [(500, 2200), (500, 800)].map (fun x => classify ppm x.2) =
          [true, false].map (fun v => if v then Sym.long else Sym.short) ∧ ¬ ppm.InsideLimits 3001 := by
  refine ⟨⟨by decide, by decide, ?_, by decide +kernel⟩, by decide, by decide, ?_, by decide +kernel, ?_⟩ <;>
    simp [Desc.InsideLimits, pwm, ppm, profile]

/-- Runs for both forms of `PulseCodeTrainsDecode`, a gap of no period and one at the limit, and gaps beyond each limit. -/
theorem test_witness_PulseCodeTrainsDecode :
    (nrz.coding = 2#3 ∧ 1 ≤ nrz.longWidth.toNat ∧ nrz.shortWidth = nrz.longWidth ∧
        (∀ r ∈ [(1, 0), (2, 10)], 1 ≤ r.1 ∧ nrz.InsideLimits (r.2 * nrz.longWidth.toNat)) ∧
        ¬ nrz.InsideLimits 1001 ∧ ¬ nrz.InsideLimits 6000) ∧
      rz.coding = 2#3 ∧ rz.shortWidth ≠ rz.longWidth ∧
        (∀ r ∈ [(0, 0), (0, 9)], rz.shortWidth.toNat ≤ (r.2 + 1) * rz.longWidth.toNat ∧
          rz.InsideLimits ((r.2 + 1) * rz.longWidth.toNat - rz.shortWidth.toNat)) ∧ ¬ rz.InsideLimits 1001 := by
  refine ⟨⟨by decide, by decide, by decide, ?_, ?_, ?_⟩, by decide, by decide, ?_, ?_⟩ <;>
    simp [Desc.InsideLimits, nrz, rz, profile]

/-- Runs that spell `menc [0, 0]` and `dmenc low [1, 0, 1, 0]`; with a last pulse before a gap beyond a limit, codes that end
high, `menc [0, 1]` and `dmenc low [0, 1]`, and codes whose last low chip is in the silence. -/
theorem test_witness_ManchesterPulseTrainsDecode :
    (1 ≤ manch.shortWidth.toNat ∧ manch.coding = 3#3 ∧
        (∀ r ∈ [(1, 1), (1, 1)], (r.1 = 1 ∨ r.1 = 2) ∧ (r.2 = 1 ∨ r.2 = 2) ∧
          manch.InsideLimits (r.2 * manch.shortWidth.toNat)) ∧
        runChips [(1, 1), (1, 1)] = menc [false, false] ∧ ¬ manch.InsideLimits 6000 ∧
        runChips [(1, 2)] ++ List.replicate 1 true = menc [false, true] ∧
        runChips [(1, 1)] ++ List.replicate 1 true ++ [false] = menc [false, false]) ∧
      dmanch.coding = 4#3 ∧
        (∀ r ∈ [(2, 1), (1, 2), (1, 1)], (r.1 = 1 ∨ r.1 = 2) ∧ (r.2 = 1 ∨ r.2 = 2) ∧
          dmanch.InsideLimits (r.2 * dmanch.shortWidth.toNat)) ∧
        runChips [(2, 1), (1, 2), (1, 1)] = dmenc false [true, false, true, false] ∧ ¬ dmanch.InsideLimits 401 ∧
        runChips [(1, 1)] ++ List.replicate 2 true = dmenc false [false, true] ∧
        runChips [(2, 1), (1, 2)] ++ List.replicate 1 true ++ [false] = dmenc false [true, false, true, false] := by
  refine ⟨⟨by decide, by decide, ?_, by decide, ?_, by decide, by decide⟩, by decide, ?_, by decide, ?_, by decide, by decide⟩ <;>
    simp [Desc.InsideLimits, manch, dmanch, profile]

theorem test_witness_RegistryLifecycleCommands :
    waiting.dst = .waitDecode ∧ ended.dst ≠ .waitDecode ∧ State.reset.rst ≠ .opened ∧
      State.rst { State.reset with rst := .opened } = .opened := by decide

/-- An invalid descriptor, a valid one, and a registry with room or full. -/
theorem test_witness_RegAddRegistersValidDescriptor :
    State.reset.rst ≠ .opened ∧ ¬ 1 ≤ Desc.zero.shortWidth.toNat ∧
      (pwm.kind &&& 0xFFFFFEE8#32 = 0 ∧ pwm.kind.toNat % 8 ≤ 4 ∧ 1 ≤ pwm.shortWidth.toNat ∧
        (3 ≤ pwm.kind.toNat % 8 ∨ 1 ≤ pwm.longWidth.toNat) ∧ pwm.preambleBits.toNat ≤ 64 ∧ pwm.reserved = 0) ∧
      (List.replicate 256 pwm).length = 256 ∧ (List.replicate 255 pwm).length ≠ 256 := by
  refine ⟨by decide, by decide, by decide, List.length_replicate, by rw [List.length_replicate]; decide⟩

theorem test_witness_CandidateIsItsOwnFirstDecoder :
    (locked [pwm, pwm, ppm] pulses).firstSlot (locked [pwm, pwm, ppm] pulses).eligible = some 2 := by decide +kernel

theorem test_witness_DspStartSelectsFirstDecoder :
    State.reset.rst ≠ .locked ∧ waiting.dst = .waitDecode ∧
      (State.ptLen { ended with ptLen := 1025 } = 1025 ∧ 1024 < (1025#32).toNat) ∧
      ended.rst = .locked ∧ ended.dst ≠ .waitDecode ∧ ended.ptLen.toNat ≤ 1024 ∧ ended.reg.length ≤ 256 := by decide

/-- The least success, the greatest failure and a negative code that is undefined. -/
theorem test_witness_DspReturnRecordsAndContinues :
    State.reset.dst ≠ .waitDecode ∧ waiting.dst = .waitDecode ∧ waiting.reg.length ≤ 256 ∧
      1 ≤ (if -4 ≤ (1#32).toInt then 1#32 else 0).toInt ∧ (if -4 ≤ (0#32).toInt then 0#32 else 0).toInt < 1 ∧
      (if -4 ≤ (-5#32).toInt then -5#32 else 0).toInt < 1 := by decide

theorem test_witness_DspAckReturnsToIdle : State.reset.dst ≠ .done ∧ ended.dst = .done := by decide

/-- Two states of one dispatch that differ elsewhere, both commands answered, and steps that leave the position. -/
theorem test_witness_DispatchDependsOnRegistryTrainOutcomes :
    (let s := locked [pwm, pwm] pulses
     let s' : State := { s with res0 := 9, nrec := 4, lastCmd := 0x48 }
     s.reg = s'.reg ∧ s.rst = s'.rst ∧ s.ptLen = s'.ptLen ∧ s.train = s'.train ∧ s.rst = .locked ∧ s.dst ≠ .waitDecode ∧
       s'.dst ≠ .waitDecode ∧ s.ptLen.toNat ≤ 1024 ∧ got (exec .dspStart s) (fun t => t.dst == .waitDecode) = true) ∧
      (SameDispatch waiting { waiting with flip := true, bb0 := waiting.bb0.invert, res1 := 3 } ∧
        got (exec .dspReturn waiting) (fun t => t.cur == 1) = true) ∧
      (waiting.rst = .locked ∧ (asked waiting (cmd 0x27)).requests.head? ≠ some .reset ∧
        (asked waiting (cmd 0x27)).requests.head? ≠ some (.write .four 0x10#15 0x49#32) ∧
        got (step (asked waiting (cmd 0x27))) (fun t => t.flip) = true) := by
  refine ⟨⟨rfl, rfl, rfl, rfl, rfl, by decide, by decide, by decide, by decide +kernel⟩, ⟨?_, by decide +kernel⟩,
    rfl, by decide, by decide, by decide +kernel⟩
  exact ⟨rfl, rfl, rfl, rfl, rfl, rfl, fun _ => ⟨rfl, rfl, rfl⟩⟩

/-- A state of a running dispatch that meets the invariant, as `EveryStepAnswersNext` asks. -/
theorem test_waiting_inv : waiting.Inv where
  memory := by decide +kernel
  bb0Fits := ⟨by decide, by decide, by decide⟩
  bb1Fits := ⟨by decide, by decide, by decide⟩
  slots := by decide
  valid := by decide
  uninitEmpty := by decide
  waitLocked := by decide
  waitTrain := by decide
  waitSlots := by decide
  waitBuffer := by decide
  flipWait := by decide
  statusCode := by decide
  waitCount := by decide +kernel
  counts := by decide
  matched := by decide

theorem test_witness_EveryStepKeepsInvariant :
    waiting.Inv ∧ got (step waiting) (fun t => t == waiting) = true := ⟨test_waiting_inv, by decide +kernel⟩

theorem test_witness_AttemptsNeverExceedSlots :
    waiting.Inv ∧ waiting.dst = .waitDecode ∧ got (exec .dspReturn waiting) (fun t => t.dst == .waitDecode) = true :=
  ⟨test_waiting_inv, rfl, by decide +kernel⟩

end Sys2Proof.Tests
end

/-!
PROOFS of the family 10_state.md: reset, the register page, the effects of the commands, and the invariant of a run.
-/

namespace Sys2Proof.Machine

/-! ## The packed views as numbers (R30, R32, R37, R38) -/

theorem State.ieWord_eq (s : State) : s.ieWord = BitVec.ofNat 32 s.ie.toNat := by
  have := s.ie.isLt
  apply BitVec.eq_of_toNat_eq
  simp [State.ieWord]

/-- Adjacent fields as a sum of numbers. -/
theorem toNat_append_eq_add {m n : Nat} (x : BitVec m) (y : BitVec n) :
    (x ++ y).toNat = 2 ^ n * x.toNat + y.toNat := by
  rw [BitVec.toNat_append, ← Nat.shiftLeft_add_eq_or_of_lt y.isLt, Nat.shiftLeft_eq, Nat.mul_comm]

/-- A flag in bit 31 over a slot number. -/
theorem flagged_slot_eq (f : Bool) (slot : BitVec 8) :
    BitVec.ofBool f ++ 0#23 ++ slot = BitVec.ofNat 32 (slot.toNat + 2 ^ 31 * f.toNat) := by
  have := slot.isLt
  have := f.toNat_lt
  apply BitVec.eq_of_toNat_eq
  simp only [toNat_append_eq_add, BitVec.toNat_ofNat, BitVec.toNat_ofBool]
  omega

theorem State.dstate_eq (s : State) : s.dstate = BitVec.ofNat 32
    (dstNumber s.dst + 4 * rstNumber s.rst + 16 * s.flip.toNat + 256 * s.cur.toNat + 65536 * s.cand.toNat) := by
  have hcand := s.cand.isLt
  have hcur := s.cur.isLt
  have hflip := s.flip.toNat_lt
  have hrst := s.rst.code.isLt
  have hdst := s.dst.code.isLt
  apply BitVec.eq_of_toNat_eq
  simp only [RegState.toNat_code, DispState.toNat_code] at hrst hdst
  simp only [State.dstate, toNat_append_eq_add, BitVec.toNat_ofNat, BitVec.toNat_ofBool, RegState.toNat_code,
    DispState.toNat_code]
  omega

/-! ## Reset (10_state.md R54) -/

/-- The reset values hold whatever is still pending, whatever was emitted and whichever reset it was. -/
theorem State.atReset_reset (rest : List Request) (evt : List Event) (n : Nat) :
    State.AtReset { State.reset with requests := rest, evt := evt, epoch := n } where
  operands := ⟨rfl, rfl, rfl, rfl⟩
  results := ⟨rfl, rfl⟩
  command := ⟨rfl, rfl⟩
  interrupts := ⟨rfl, by simp [State.irq, State.reset]⟩
  train := rfl
  staging := by simp [State.reset]
  sequencing := ⟨rfl, rfl, rfl, rfl, by simp [State.dstate_eq, State.reset, dstNumber, rstNumber]⟩
  registry := ⟨rfl, rfl, fun i => by simp [State.slot, State.reset]⟩
  tried := fun i => by simp [State.reset]
  counters := ⟨rfl, rfl, rfl, rfl⟩
  views := by simp [State.matchWord, State.bb0tag, State.reset]
  buffers := ⟨rfl, rfl, rfl, rfl⟩
  memories := fun _ => rfl

/-- Settles O5: the reset values, and the step that serves a `RESET`. -/
theorem resetTakesResetValues : Obligations.ResetTakesResetValues :=
  ⟨State.atReset_reset [] [] 0, fun s rest =>
    ⟨_, step_reset _ rest rfl, State.atReset_reset rest s.evt (s.epoch + 1), rfl, rfl⟩⟩

/-- Settles O55: at reset the buffers, the registry and the counters are empty and no dispatch runs. -/
theorem resetMeetsInvariant : Obligations.ResetMeetsInvariant where
  memory := Memory.wf_reset
  bb0Fits := BitBuf.fits_empty
  bb1Fits := BitBuf.fits_empty
  slots := Nat.zero_le _
  valid := nofun
  uninitEmpty := fun _ => rfl
  waitLocked := nofun
  waitTrain := nofun
  waitSlots := nofun
  waitBuffer := nofun
  flipWait := nofun
  statusCode := Nat.zero_le _
  waitCount := nofun
  counts := ⟨Nat.le_refl _, Nat.zero_le _⟩
  matched := ⟨nofun, fun h => absurd rfl h⟩

/-! ## Accesses to the register page and the registry (10_state.md R26, R45) -/

/-- A word read at an aligned address the map names returns the target's word and changes nothing else (R75). -/
theorem step_read_word (s : State) (rest : List Request) (a : Nat) (t : Target) (ha : a < 2 ^ 15) (hal : a % 4 = 0)
    (ht : targetOf a = some t) :
    step { s with requests := .read .four (BitVec.ofNat 15 a) :: rest } =
      .next { s with requests := rest, resp := .data (s.readTarget .four a t) } := by
  have hc : State.busCheck { s with requests := .read .four (BitVec.ofNat 15 a) :: rest } false .four a = .ok t := by
    simp [State.busCheck, ht, Size.bytes, hal]
  rw [step_read _ .four _ rest rfl, BitVec.toNat_ofNat, Nat.mod_eq_of_lt ha, hc]
  cases t with
  | page r => cases r <;> rfl
  | _ => rfl

/-- A word write to a register other than `CMD` that the tests of R76 pass stores its data (R75). -/
theorem step_write_page (s : State) (rest : List Request) (v : Word) (a : Nat) (r : PageReg) (ha : a < 2 ^ 15)
    (hal : a % 4 = 0) (ht : targetOf a = some (.page r)) (hr : r ≠ .cmd) (hro : (Target.page r).readOnly = false)
    (hf : r = .ptLen → s.dst ≠ .waitDecode) :
    step { s with requests := .write .four (BitVec.ofNat 15 a) v :: rest } =
      .next (State.writePage v { s with requests := rest, resp := .done } r) := by
  have hfr : ¬ ((Target.page r).frozenInDispatch = true ∧ s.dst = .waitDecode) := by
    rintro ⟨h1, h2⟩
    cases r with
    | ptLen => exact hf rfl h2
    | _ => cases h1
  have hc : State.busCheck { s with requests := .write .four (BitVec.ofNat 15 a) v :: rest } true .four a =
      .ok (.page r) := by
    simpa [State.busCheck, ht, Size.bytes, hal, hro] using hfr
  rw [step_write _ .four _ v rest rfl, BitVec.toNat_ofNat, Nat.mod_eq_of_lt ha, hc]
  simp only [State.writeTarget, if_neg hr]

/-- Where word `w` of `DESC` lies (R26). -/
theorem targetOf_desc (w : Nat) (h : w < 16) : targetOf (0x80 + 4 * w) = some (.page (.desc w)) := by
  interval_cases w <;> rfl

/-- Where word `w` of registry slot `i` lies (20_memory.md R71). -/
theorem targetOf_regWord (i w : Nat) (hi : i < 256) (hw : w < 16) :
    targetOf (0x4000 + 64 * i + 4 * w) = some (.reg i w) := by
  rw [targetOf_reg _ (by omega)]
  congr 2 <;> omega

/-! ### Every register read and written (O9, O10) -/

/-- Settles O9: each address names its register, and the packed views are the numbers of R30, R32, R37 and R38. -/
theorem registerReadsReturnState : Obligations.RegisterReadsReturnState := by
  intro s rest reads
  have read (a : Nat) (t : Target) (v : Word) (ha : a < 2 ^ 15) (hal : a % 4 = 0) (ht : targetOf a = some t)
      (hv : s.readTarget .four a t = v) : reads a v := hv ▸ step_read_word s rest a t ha hal ht
  have page (a : Nat) (r : PageReg) (v : Word) (ha : a < 0x100 ∧ a % 4 = 0) (ht : targetOf a = some (.page r))
      (hv : s.readPage r = v) : reads a v := read a (.page r) v (by omega) ha.2 ht hv
  refine ⟨⟨?_, ?_, ?_, ?_⟩, ⟨?_, ?_, ?_, ?_⟩, ⟨?_, ?_, ?_, ?_⟩, ⟨?_, ?_, ?_⟩, ?_, ⟨?_, ?_, ?_, ?_⟩, ?_, ?_, ?_, ?_⟩
  · exact page _ .id _ (by decide) rfl rfl
  · exact page _ .cap0 _ (by decide) rfl rfl
  · exact page _ .cap1 _ (by decide) rfl rfl
  · exact page _ .cap2 _ (by decide) rfl rfl
  · exact page _ .cmd _ (by decide) rfl rfl
  · exact page _ .status _ (by decide) rfl rfl
  · exact page _ .res0 _ (by decide) rfl rfl
  · exact page _ .res1 _ (by decide) rfl rfl
  · exact page _ .arg0 _ (by decide) rfl rfl
  · exact page _ .arg1 _ (by decide) rfl rfl
  · exact page _ .arg2 _ (by decide) rfl rfl
  · exact page _ .arg3 _ (by decide) rfl rfl
  · exact page _ .ptLen _ (by decide) rfl rfl
  · exact page _ .ie _ (by decide) rfl s.ieWord_eq
  · exact page _ .nreg _ (by decide) rfl rfl
  · exact page _ .dstate _ (by decide) rfl s.dstate_eq
  · exact page _ .nrec _ (by decide) rfl rfl
  · exact page _ .natt _ (by decide) rfl rfl
  · exact page _ .nmatch _ (by decide) rfl rfl
  · exact page _ .last _ (by decide) rfl rfl
  · exact page _ .matchReg _ (by decide) rfl (flagged_slot_eq s.matchV s.matchSlot)
  · exact page _ .bb0tag _ (by decide) rfl (flagged_slot_eq s.tagV s.tagSlot)
  · intro w hw
    exact page _ (.desc w) _ (by omega) (targetOf_desc w hw) (s.desc.word_eq_getD w hw)
  · intro i w hi hw
    exact read _ (.reg i w) _ (by omega) (by omega) (targetOf_regWord i w hi hw) (s.word_slot i w hw)

/-- Settles O10: each address names its register, and word `w` of `DESC` is element `w` of the sixteen words. -/
theorem registerWritesStoreData : Obligations.RegisterWritesStoreData := by
  intro s rest v t write
  have free (a : Nat) (r : PageReg) (ha : a < 2 ^ 15 ∧ a % 4 = 0) (ht : targetOf a = some (.page r)) (hr : r ≠ .cmd)
      (hro : (Target.page r).readOnly = false) (hp : r ≠ .ptLen) : write a = .next (t.writePage v r) :=
    step_write_page s rest v a r ha.1 ha.2 ht hr hro fun e => absurd e hp
  refine ⟨?_, ?_, ?_, ?_, ?_, ?_, ?_⟩
  · exact free _ .arg0 (by decide) rfl nofun rfl nofun
  · exact free _ .arg1 (by decide) rfl nofun rfl nofun
  · exact free _ .arg2 (by decide) rfl nofun rfl nofun
  · exact free _ .arg3 (by decide) rfl nofun rfl nofun
  · exact free _ .ie (by decide) rfl nofun rfl nofun
  · exact fun hd => step_write_page s rest v _ .ptLen (by decide) (by decide) rfl nofun rfl fun _ => hd
  · exact fun w hw => ⟨s.desc.setWord v w, free _ (.desc w) (by omega) (targetOf_desc w hw) nofun rfl nofun,
      descWords_setWord s.desc v w hw⟩

end Sys2Proof.Machine

namespace Sys2Proof.Machine

/-! ## What each command can do -/

/-- The commands that write `RES0` alone (R22). -/
def oneResult : List Instr :=
  [.crc8, .crc8r, .crc16, .crc16r, .xorb, .addb, .parb, .refl8, .bbRowlen .bb0, .bbRowlen .bb1, .bbGetbit .bb0,
    .bbGetbit .bb1, .bbCmprows .bb0, .bbCmprows .bb1, .bbFindrep .bb0, .bbFindrep .bb1, .bbFindpfx .bb0, .bbFindpfx .bb1]

/-- The commands that write `RES0` and `RES1` and nothing else (R22). -/
def twoResults : List Instr :=
  [.lfsr8, .lfsr8r, .lfsr16, .lfsr16r, .bbInfo .bb0, .bbInfo .bb1, .bbSearch .bb0, .bbSearch .bb1]

/-- The commands that store bytes to `SCR` (R42). -/
def scratchWriters : List Instr := [.reflb, .bbExtract .bb0, .bbExtract .bb1]

/-- Command `i`, answered in state `s`, can lead to these states: one constructor per way to end, with the checks that
were passed (60_exceptions.md R282). -/
inductive Effect (s : State) : Instr → State → Prop
  /-- refused: `STATUS` alone (R283) -/
  | refused (i : Instr) (c : RefuseCode) : Effect s i (s.refuse c)
  | null : Effect s .nop s.accept
  | result {i : Instr} (hi : i ∈ oneResult) (v : Word) : Effect s i (s.setRes0 v).accept
  | results {i : Instr} (hi : i ∈ twoResults) (v w : Word) : Effect s i ((s.setRes0 v).setRes1 w).accept
  | scratch {i : Instr} (hi : i ∈ scratchWriters) (a : Nat) (bs : List Byte) (inside : a + bs.length ≤ 1024) :
      Effect s i (s.writeScr a bs).accept
  | clear0 (free : s.dst ≠ .waitDecode) : Effect s (.bbClear .bb0) { s with bb0 := BitBuf.empty, tagV := false }.accept
  | clear1 : Effect s (.bbClear .bb1) { s with bb1 := BitBuf.empty }.accept
  /-- rows or bits appended to a buffer that is not under decode (R153, R154, R163) -/
  | append (b : Buf) {i : Instr} (hi : i ∈ [.bbAddrow b, .bbAddbit b, .bbAddbits b]) (v : BitBuf)
      (free : b = .bb0 → s.dst ≠ .waitDecode) (fits : (s.buf b).fits → v.fits) : Effect s i (s.setBuf b v).accept
  /-- the second-stage decodes (R190) -/
  | secondStage (src dst : Buf) {i : Instr} (hi : i ∈ [.bbManch src dst, .bbDmanch src dst]) (differ : src ≠ dst)
      (free : dst = .bb0 → s.dst ≠ .waitDecode) (out : List Bool) (v w : Word) :
      Effect s i (((s.setBuf dst ((s.buf dst).addBits out)).setRes0 v).setRes1 w).accept
  /-- an inversion of a buffer that is not under decode (R162) -/
  | invert (b : Buf) (free : b = .bb0 → s.dst ≠ .waitDecode) : Effect s (.bbInvert b) (s.setBuf b (s.buf b).invert).accept
  /-- an inversion of the buffer under decode is recorded in `FLIP` (R162) -/
  | flip (wait : s.dst = .waitDecode) : Effect s (.bbInvert .bb0) { s with bb0 := s.bb0.invert, flip := !s.flip }.accept
  | demod (free : s.dst ≠ .waitDecode) (c : Nat) (v : Word) : Effect s .demod ((s.demodulate c).setRes0 v).accept
  | regInit (free : s.dst ≠ .waitDecode) : Effect s .regInit (s.emptyRegistry .opened).accept
  | regTeardown (free : s.dst ≠ .waitDecode) : Effect s .regTeardown (s.emptyRegistry .uninit).accept
  | regAdd (opened : s.rst = .opened) (valid : s.desc.valid = true) (room : s.reg.length ≠ Config.regSlots) :
      Effect s .regAdd { s with reg := s.reg ++ [s.desc], res0 := s.nreg }.accept
  | regLock (opened : s.rst = .opened) : Effect s .regLock { s with rst := .locked, res0 := s.nreg }.accept
  | dspStart (locked : s.rst = .locked) (free : s.dst ≠ .waitDecode) (train : s.ptLen.toNat ≤ 1024) {u : State}
      (sel : SelectsCandidate s.clearDispatch u) : Effect s .dspStart u.accept
  | dspSuccess (wait : s.dst = .waitDecode) (v : Word) {u : State}
      (sel : SelectsCandidate ((s.unflip.recordOutcome v).recordSuccess v) u) : Effect s .dspReturn u.accept
  | dspFailure (wait : s.dst = .waitDecode) (v : Word) {u : State} (sel : SelectsDecoder (s.unflip.recordOutcome v) u) :
      Effect s .dspReturn u.accept
  | dspAck (done : s.dst = .done) : Effect s .dspAck { s with dst := .idle }.accept

/-! ### The shared frames -/

/-- A command over a scratch slice ends as its body does or is refused (R120). -/
theorem Effect.onSlice {s : State} {i : Instr} {k : List Byte → State}
    (h : s.arg0.toNat + s.arg1.toNat ≤ 1024 →
      Effect s i (k (s.scrSlice s.arg0.toNat s.arg1.toNat)).accept) : Effect s i (s.onSlice k) := by
  rcases Nat.lt_or_ge 1024 (s.arg0.toNat + s.arg1.toNat) with hr | hr
  · rw [s.onSlice_of_gt k hr]; exact .refused i .range
  · rw [s.onSlice_of_le k hr]; exact h hr

/-- A command that changes a buffer ends as its body does or is refused (R163). -/
theorem Effect.onUnlocked {s k : State} {i : Instr} {b : Buf}
    (h : (b = .bb0 → s.dst ≠ .waitDecode) → Effect s i k) : Effect s i (s.onUnlocked b k) := by
  by_cases hb : b = .bb0 → s.dst ≠ .waitDecode
  · rw [s.onUnlocked_of_free b k hb]; exact h hb
  · obtain ⟨rfl, hw⟩ : b = .bb0 ∧ s.dst = .waitDecode := by simpa using hb
    rw [s.onUnlocked_of_wait k hw]; exact .refused i .state

/-- A command with a row operand ends as its body does or is refused (R150). -/
theorem Effect.onRow {s k : State} {i : Instr} {b : Buf} {r : Word} (h : Effect s i k) : Effect s i (s.onRow b r k) := by
  rcases Nat.lt_or_ge r.toNat (s.buf b).rows.length with hr | hr
  · rw [s.onRow_of_lt b r k hr]; exact h
  · rw [s.onRow_of_ge b r k hr]; exact .refused i .row

/-- A command with a slice of `n` bits ends as its body does or is refused (R282, check 6). -/
theorem Effect.ifInScr {s k : State} {i : Instr} {a n : Nat} (h : a + n ≤ 1024 → Effect s i k) :
    Effect s i (if inScr a n then k else s.refuse .range) := by
  rcases Nat.lt_or_ge 1024 (a + n) with hr | hr
  · rw [inScr_of_gt hr]; exact .refused i .range
  · rw [inScr_of_le hr]; exact h hr

/-- A second-stage decode (R190). -/
theorem Effect.ofSecondStage {s : State} {i : Instr} {src dst : Buf} (f : List Bool → Nat → List Bool)
    (hi : i ∈ [.bbManch src dst, .bbDmanch src dst]) : Effect s i (s.secondStage src dst f) := by
  rcases s.secondStage_cases src dst f with ⟨-, e⟩ | ⟨-, -, e⟩ | ⟨-, -, -, e⟩ | ⟨hl, hne, -, e⟩ <;> rw [e]
  · exact .refused i .state
  · exact .refused i .buf
  · exact .refused i .row
  · refine .secondStage src dst hi hne (fun hd hw => ?_) _ _ _
    rw [(s.bufLocked_iff dst).2 ⟨hd, hw⟩] at hl
    cases hl

@[simp] theorem BitBuf.length_extract (b : BitBuf) (r off n : Nat) : (b.extract r off n).length = ceil8 n := by
  simp [BitBuf.extract]

/-- Every answer of a command is one of its effects. -/
theorem exec_effect (i : Instr) (s t : State) (h : exec i s = .next t) : Effect s i t := by
  cases i with
  | nop => cases h; exact .null
  | crc8 => cases h; exact .onSlice fun _ => .result (by decide) _
  | crc8r => cases h; exact .onSlice fun _ => .result (by decide) _
  | crc16 => cases h; exact .onSlice fun _ => .result (by decide) _
  | crc16r => cases h; exact .onSlice fun _ => .result (by decide) _
  | xorb => cases h; exact .onSlice fun _ => .result (by decide) _
  | addb => cases h; exact .onSlice fun _ => .result (by decide) _
  | parb => cases h; exact .onSlice fun _ => .result (by decide) _
  | lfsr8 => cases h; exact .onSlice fun _ => .results (by decide) _ _
  | lfsr8r => cases h; exact .onSlice fun _ => .results (by decide) _ _
  | lfsr16 => cases h; exact .onSlice fun _ => .results (by decide) _ _
  | lfsr16r => cases h; exact .onSlice fun _ => .results (by decide) _ _
  | refl8 => cases h; exact .result (by decide) _
  | reflb => cases h; exact .onSlice fun hr => .scratch (by decide) _ _ (by simpa using hr)
  | bbClear b =>
    cases h
    cases b with
    | bb0 => exact .onUnlocked fun hf => .clear0 (hf rfl)
    | bb1 => exact .onUnlocked fun _ => .clear1
  | bbAddrow b => cases h; exact .onUnlocked fun hf => .append b (by simp) _ hf (s.buf b).fits_addRow
  | bbAddbit b => cases h; exact .onUnlocked fun hf => .append b (by simp) _ hf ((s.buf b).fits_addBit _)
  | bbAddbits b =>
    cases h
    exact .onUnlocked fun hf => .ifInScr fun _ => .append b (by simp) _ hf (BitBuf.fits_addBits _ _)
  | bbInfo b => cases h; exact .results (by cases b <;> decide) _ _
  | bbRowlen b => cases h; exact .onRow (.result (by cases b <;> decide) _)
  | bbGetbit b => cases h; exact .onRow (.result (by cases b <;> decide) _)
  | bbInvert b =>
    cases h
    by_cases hb : b = .bb0 → s.dst ≠ .waitDecode
    · rw [s.bufLocked_of_free b hb]; exact .invert b hb
    · obtain ⟨rfl, hw⟩ : b = .bb0 ∧ s.dst = .waitDecode := by simpa using hb
      rw [s.bufLocked_of_wait hw]; exact .flip hw
  | bbSearch b => cases h; exact .onRow (.ifInScr fun _ => .results (by cases b <;> decide) _ _)
  | bbExtract b =>
    cases h
    exact .onRow (.ifInScr fun hr => .scratch (by cases b <;> decide) _ _ (by simpa using hr))
  | bbCmprows b => cases h; exact .onRow (.onRow (.result (by cases b <;> decide) _))
  | bbFindrep b => cases h; exact .result (by cases b <;> decide) _
  | bbFindpfx b => cases h; exact .result (by cases b <;> decide) _
  | bbManch src dst => cases h; exact .ofSecondStage _ (by simp)
  | bbDmanch src dst => cases h; exact .ofSecondStage _ (by simp)
  | demod =>
    cases h
    split
    · exact .refused _ .state
    · rename_i hs
      split
      · exact .refused _ .operand
      · exact .demod (fun hw => hs (.inr hw)) _ _
  | regInit =>
    cases h
    split
    · exact .refused _ .state
    · exact .regInit ‹_›
  | regAdd =>
    cases h
    split
    · exact .refused _ .state
    · split
      · exact .refused _ .operand
      · split
        · exact .refused _ .full
        · exact .regAdd (not_not.1 ‹_›) (by simpa using ‹¬ s.desc.valid = false›) ‹_›
  | regLock =>
    cases h
    split
    · exact .refused _ .state
    · exact .regLock (not_not.1 ‹_›)
  | regTeardown =>
    cases h
    split
    · exact .refused _ .state
    · exact .regTeardown ‹_›
  | dspStart =>
    rcases execDspStart_cases s t h with rfl | rfl | ⟨hl, hf, ht, u, hu, rfl⟩
    · exact .refused _ .state
    · exact .refused _ .operand
    · exact .dspStart hl hf ht hu
  | dspReturn =>
    by_cases hw : s.dst = .waitDecode
    · rcases execDspReturn_cases s t hw h with ⟨-, u, hu, rfl⟩ | ⟨-, u, hu, rfl⟩
      · exact .dspSuccess hw _ hu
      · exact .dspFailure hw _ hu
    · simp only [exec, execDspReturn, if_pos hw] at h
      cases h
      exact .refused _ .state
  | dspAck =>
    cases h
    split
    · exact .refused _ .state
    · exact .dspAck (not_not.1 ‹_›)

end Sys2Proof.Machine

namespace Sys2Proof.Machine

/-! ## The invariant of a run, operation by operation (O56)

One lemma per operation of the state. A field of `State.Inv` that the operation does not touch is taken over by `h with`. -/

theorem RefuseCode.code_le (c : RefuseCode) : c.code.toNat ≤ 8 := by cases c <;> decide

theorem State.Inv.refuse {s : State} (h : s.Inv) (c : RefuseCode) : (s.refuse c).Inv :=
  { h with statusCode := c.code_le }

theorem State.Inv.accept {s : State} (h : s.Inv) : s.accept.Inv := { h with statusCode := Nat.zero_le _ }

theorem State.Inv.setRes0 {s : State} (h : s.Inv) (v : Word) : (s.setRes0 v).Inv := { h with }

theorem State.Inv.setRes1 {s : State} (h : s.Inv) (v : Word) : (s.setRes1 v).Inv := { h with }

theorem State.Inv.setLastCmd {s : State} (h : s.Inv) (w : Word) : State.Inv { s with lastCmd := w } := { h with }

/-- What HOST has yet to do and the bus's answer are not in the invariant (log 1, log 2). -/
theorem State.Inv.served {s : State} (h : s.Inv) (rest : List Request) (r : Response) :
    State.Inv { s with requests := rest, resp := r } := { h with }

/-- After a `RESET` (R310). -/
theorem State.Inv.afterReset (rest : List Request) (evt : List Event) (n : Nat) :
    State.Inv { State.reset with requests := rest, evt := evt, epoch := n } := { resetMeetsInvariant with }

theorem State.Inv.writeScr {s : State} (h : s.Inv) (a : Nat) (bs : List Byte) (inside : a + bs.length ≤ 1024) :
    (s.writeScr a bs).Inv :=
  { h with memory := s.wf_writeScr a bs inside h.memory }

/-- Bytes stored by HOST lie in `SCR` or `PT`, since an access is aligned (20_memory.md R71, R74). -/
theorem State.Inv.writeBytesAt {s : State} (h : s.Inv) (a : Nat) (size : Size) (v : Word)
    (ram : (0x400 ≤ a ∧ a < 0x800) ∨ (0x2000 ≤ a ∧ a < 0x4000)) (aligned : a % size.bytes = 0) :
    (s.writeBytesAt a (leBytes size.bytes v)).Inv := by
  refine { h with memory := Memory.wf_writeBytes _ _ _ (fun j hj => ?_) h.memory }
  rw [length_leBytes] at hj
  have hend : (0x400 ≤ a ∧ a + j < 0x800) ∨ (0x2000 ≤ a ∧ a + j < 0x4000) := by
    cases size <;> simp only [Size.bytes] at hj aligned <;> omega
  simp [isRam, Config.scrBase, Config.scrBytes, Config.ptBase, Config.regBase]
  omega

/-- A write to a register; `PT_LEN` is not written while a decoder is awaited (R76). -/
theorem State.Inv.writePage {s : State} (h : s.Inv) (v : Word) (r : PageReg) (hp : ¬ (r = .ptLen ∧ s.dst = .waitDecode)) :
    (s.writePage v r).Inv := by
  cases r with
  | ptLen => exact { h with waitTrain := fun hw => absurd ⟨rfl, hw⟩ hp }
  | arg0 | arg1 | arg2 | arg3 | ie | desc => exact { h with }
  | _ => exact h

/-- A buffer that is not under decode can be replaced by any that fits. -/
theorem State.Inv.setBuf {s : State} (h : s.Inv) (b : Buf) {v : BitBuf} (fits : v.fits)
    (free : b = .bb0 → s.dst ≠ .waitDecode) : (s.setBuf b v).Inv := by
  cases b with
  | bb0 => exact { h with bb0Fits := fits, waitBuffer := fun hw => absurd hw (free rfl) }
  | bb1 => exact { h with bb1Fits := fits }

theorem State.Inv.buf_fits {s : State} (h : s.Inv) (b : Buf) : (s.buf b).fits := by
  cases b with
  | bb0 => exact h.bb0Fits
  | bb1 => exact h.bb1Fits

theorem State.Inv.clear0 {s : State} (h : s.Inv) (free : s.dst ≠ .waitDecode) :
    State.Inv { s with bb0 := BitBuf.empty, tagV := false } :=
  { h with bb0Fits := BitBuf.fits_empty, waitBuffer := fun hw => absurd hw free }

/-- The buffer under decode keeps its rows when it is inverted (R162). -/
theorem State.Inv.flip {s : State} (h : s.Inv) (wait : s.dst = .waitDecode) :
    State.Inv { s with bb0 := s.bb0.invert, flip := !s.flip } :=
  { h with
    bb0Fits := s.bb0.fits_invert h.bb0Fits
    waitBuffer := fun hw => by simpa using h.waitBuffer hw
    flipWait := fun _ => wait }

/-- Every demodulation leaves a buffer within capacity (R216). -/
theorem fits_demodTrain (p : Desc) (train : List (Nat × Nat)) : (demodTrain p train).buf.fits := by
  refine demodTrain_keeps BitBuf.fits (fun d v hd => ?_) BitBuf.fits_empty p train
  simp only [Demod.emit]
  split
  · exact BitBuf.fits_addBit _ v (BitBuf.fits_addRow _ hd)
  · exact BitBuf.fits_addBit _ v hd

theorem State.Inv.demodulate {s : State} (h : s.Inv) (c : Nat) (free : s.dst ≠ .waitDecode) : (s.demodulate c).Inv :=
  { h with bb0Fits := fits_demodTrain _ _, waitBuffer := fun hw => absurd hw free }

theorem State.Inv.emptyRegistry {s : State} (h : s.Inv) (r : RegState) (free : s.dst ≠ .waitDecode) :
    (s.emptyRegistry r).Inv :=
  { h with
    slots := Nat.zero_le _
    valid := nofun
    uninitEmpty := fun _ => rfl
    waitLocked := fun hw => absurd hw free
    waitSlots := fun hw => absurd hw free
    waitCount := fun hw => absurd hw free }

/-- No decoder is awaited while the registry is open (R241). -/
theorem State.Inv.free_of_opened {s : State} (h : s.Inv) (opened : s.rst = .opened) : s.dst ≠ .waitDecode := by
  intro hw
  rw [h.waitLocked hw] at opened
  cases opened

theorem State.Inv.regAdd {s : State} (h : s.Inv) (opened : s.rst = .opened) (valid : s.desc.valid = true)
    (room : s.reg.length ≠ Config.regSlots) : State.Inv { s with reg := s.reg ++ [s.desc], res0 := s.nreg } :=
  have free := h.free_of_opened opened
  { h with
    slots := by have := h.slots; simp; omega
    valid := by
      intro d hd
      rcases List.mem_append.1 hd with hd | hd
      · exact h.valid d hd
      · rw [List.mem_singleton.1 hd]; exact valid
    uninitEmpty := fun hu => by rw [opened] at hu; cases hu
    waitSlots := fun hw => absurd hw free
    waitCount := fun hw => absurd hw free }

theorem State.Inv.regLock {s : State} (h : s.Inv) : State.Inv { s with rst := .locked, res0 := s.nreg } :=
  { h with uninitEmpty := nofun, waitLocked := fun _ => rfl }

theorem State.Inv.dspAck {s : State} (h : s.Inv) (done : s.dst = .done) : State.Inv { s with dst := .idle } :=
  { h with
    waitLocked := nofun
    waitTrain := nofun
    waitSlots := nofun
    waitBuffer := nofun
    flipWait := fun hf => by rw [h.flipWait hf] at done; cases done
    waitCount := nofun }

/-! ### Slots dealt with (10_state.md R49) -/

theorem State.triedCount_le (s : State) : s.triedCount ≤ s.reg.length := by
  simpa [State.triedCount] using List.length_filter_le s.tried.getLsbD (List.range s.reg.length)

/-- More `TRIED` bits, no fewer slots dealt with. -/
theorem State.triedCount_le_of_imp {s t : State} (hr : t.reg = s.reg)
    (ht : ∀ i, s.tried.getLsbD i = true → t.tried.getLsbD i = true) : s.triedCount ≤ t.triedCount := by
  simp only [State.triedCount, hr]
  exact (List.monotone_filter_right _ ht).length_le

/-- A `TRIED` bit that is new makes one slot more dealt with. -/
theorem State.triedCount_lt_of_new {s t : State} (hr : t.reg = s.reg)
    (ht : ∀ i, s.tried.getLsbD i = true → t.tried.getLsbD i = true) {d : Nat} (hd : d < s.reg.length)
    (old : s.tried.getLsbD d = false) (new : t.tried.getLsbD d = true) : s.triedCount < t.triedCount := by
  refine Nat.lt_of_le_of_ne (s.triedCount_le_of_imp hr ht) fun e => ?_
  simp only [State.triedCount, hr] at e
  have same := (List.monotone_filter_right (List.range s.reg.length) ht).eq_of_length e
  have mem : d ∈ (List.range s.reg.length).filter fun i => t.tried.getLsbD i := by simp [hd, new]
  rw [← same] at mem
  simp [old] at mem

theorem State.triedCount_markTried (s : State) (x : Nat → Bool) : s.triedCount ≤ (s.markTried x).triedCount :=
  State.triedCount_le_of_imp rfl fun i hi => by simp [State.tried_markTried, hi]

/-- Invoking an eligible decoder deals with one slot more (R259). -/
theorem State.triedCount_invoke (s : State) (d : Nat) (hd : s.eligible d = true) (hr : s.reg.length ≤ 256) :
    s.triedCount < (s.invoke d).triedCount := by
  obtain ⟨hlt, -, hold⟩ := (s.eligible_iff d).1 hd
  refine State.triedCount_lt_of_new (d := d) rfl (fun i hi => ?_) hlt hold ?_
  · simp [getLsbD_setTried, hi]
  · simp [getLsbD_setTried]; omega

/-! ### Selection (45_registry_dispatch.md R258, R259) -/

/-- What holds between the turns of a selection, whatever `DST` and `FLIP` were before it: the invariant once it ends, and at
least as many slots dealt with as invocations completed. -/
structure State.Selecting (s : State) : Prop where
  ended : State.Inv { s with dst := .done }
  locked : s.rst = .locked
  train : s.ptLen.toNat ≤ Config.ptCap
  count : s.natt.toNat ≤ s.triedCount

theorem State.Selecting.tryCandidate {s : State} (h : s.Selecting) (c : Nat) : (s.tryCandidate c).Selecting :=
  { h with ended := { h.ended with bb0Fits := fits_demodTrain _ _, waitSlots := nofun, waitBuffer := nofun } }

theorem State.Selecting.markTried {s : State} (h : s.Selecting) (x : Nat → Bool) : (s.markTried x).Selecting :=
  { h with
    ended := { h.ended with waitSlots := nofun, waitCount := nofun }
    count := Nat.le_trans h.count (s.triedCount_markTried x) }

/-- A decoder is invoked on the candidate's buffer (R259). -/
theorem State.Selecting.invoke {s : State} (h : s.Selecting) {d : Nat} (hd : s.eligible d = true)
    (cand : s.cand.toNat < s.reg.length) (filled : 0 < s.bb0.rows.length) (tag : s.tagV = true ∧ s.tagSlot = s.cand) :
    (s.invoke d).Inv := by
  have hr : s.reg.length ≤ 256 := h.ended.slots
  have hd' : d < s.reg.length := ((s.eligible_iff d).1 hd).1
  have hcur : (BitVec.ofNat 8 d).toNat = d := by simp; omega
  exact { h.ended with
    bb1Fits := BitBuf.fits_empty
    waitLocked := fun _ => h.locked
    waitTrain := fun _ => h.train
    waitSlots := fun _ => by
      simp only [State.invoke_cur, hcur]
      exact ⟨cand, hd', by simp [getLsbD_setTried]; omega⟩
    waitBuffer := fun _ => ⟨filled, tag⟩
    flipWait := nofun
    waitCount := fun _ => Nat.lt_of_le_of_lt h.count (s.triedCount_invoke d hd hr) }

/-- Wherever a selection ends, the invariant holds. -/
theorem State.Selecting.selects {s u : State} (sel : SelectsCandidate s u) (h : s.Selecting) : u.Inv := by
  induction sel using SelectsCandidate.turns with
  | finish s hn => exact h.ended
  | pass s u c hc he r ih => exact ih ((h.tryCandidate c).markTried _)
  | pick s c d hc hf hd =>
    have hlt := (s.firstSlot_lt _ c hc).1
    have hr : s.reg.length ≤ 256 := h.ended.slots
    have elig : (s.tryCandidate c).eligible d = true := by
      have := ((s.tryCandidate c).firstSlot_lt _ d hd).2
      simp only [Bool.and_eq_true] at this
      exact this.1
    refine (h.tryCandidate c).invoke elig ?_ (List.length_pos_iff.2 hf) ⟨rfl, rfl⟩
    simp; omega

theorem State.Selecting.clearDispatch {s : State} (h : s.Inv) (locked : s.rst = .locked) (train : s.ptLen.toNat ≤ 1024) :
    s.clearDispatch.Selecting where
  ended := { h with
    waitLocked := nofun
    waitTrain := nofun
    waitSlots := nofun
    waitBuffer := nofun
    flipWait := nofun
    waitCount := nofun
    counts := ⟨Nat.le_refl _, Nat.zero_le _⟩
    matched := ⟨nofun, fun hn => absurd rfl hn⟩ }
  locked := locked
  train := train
  count := Nat.zero_le _

/-- A counter within the number of slots does not wrap. -/
theorem toNat_succ_of_le (x : Word) (h : x.toNat ≤ 256) : (x + 1).toNat = x.toNat + 1 :=
  BitVec.toNat_add_of_lt (Nat.lt_of_le_of_lt (Nat.succ_le_succ h) (by decide))

/-- `NATT` does not wrap: it counts at most one attempt per slot (R267). -/
theorem State.Inv.natt_recordOutcome {s : State} (h : s.Inv) (v : Word) :
    (s.unflip.recordOutcome v).natt.toNat = s.natt.toNat + 1 :=
  toNat_succ_of_le s.natt h.counts.2

/-- A return is recorded: the slot it came from was already dealt with (R263, R267). -/
theorem State.Selecting.recordOutcome {s : State} (h : s.Inv) (wait : s.dst = .waitDecode) (v : Word) :
    (s.unflip.recordOutcome v).Selecting := by
  have hn := h.natt_recordOutcome v
  have hw := h.waitCount wait
  have hle := s.triedCount_le
  have hs := h.slots
  have hc := h.counts.1
  refine ⟨{ h with
    bb0Fits := ?_
    waitLocked := nofun
    waitTrain := nofun
    waitSlots := nofun
    waitBuffer := nofun
    flipWait := nofun
    waitCount := nofun
    counts := ?_ }, h.waitLocked wait, h.waitTrain wait, ?_⟩
  · show (if s.flip then s.bb0.invert else s.bb0).fits
    split
    · exact s.bb0.fits_invert h.bb0Fits
    · exact h.bb0Fits
  · show s.nmatch.toNat ≤ (s.unflip.recordOutcome v).natt.toNat ∧ (s.unflip.recordOutcome v).natt.toNat ≤ Config.regSlots
    omega
  · show (s.unflip.recordOutcome v).natt.toNat ≤ s.triedCount
    omega

/-- A match is recorded where there were fewer matches than attempts (R35, R263). -/
theorem State.Selecting.recordSuccess {s : State} (h : s.Selecting) (v : Word) (fewer : s.nmatch.toNat < s.natt.toNat) :
    (s.recordSuccess v).Selecting := by
  have hn : s.natt.toNat ≤ 256 := h.ended.counts.2
  have hm := toNat_succ_of_le s.nmatch (by omega)
  have marked : s.triedCount ≤ (s.recordSuccess v).triedCount := s.triedCount_markTried _
  refine ⟨{ h.ended with
    waitSlots := nofun
    waitCount := nofun
    counts := ⟨?_, h.ended.counts.2⟩
    matched := ⟨fun _ hz => ?_, fun _ => rfl⟩ }, h.locked, h.train, Nat.le_trans h.count marked⟩
  · show (s.nmatch + 1).toNat ≤ s.natt.toNat
    omega
  · have hz' : (s.nmatch + 1).toNat = 0 := by
      rw [show s.nmatch + 1 = 0 from hz]; rfl
    omega

/-- Wherever `SelectDecoder()` ends after a return, the invariant holds: the buffer is still the candidate's. -/
theorem State.Inv.selectsDecoder {s u : State} (h : s.Inv) (wait : s.dst = .waitDecode) (v : Word)
    (sel : SelectsDecoder (s.unflip.recordOutcome v) u) : u.Inv := by
  have hsel := State.Selecting.recordOutcome h wait v
  rcases sel with ⟨d, hd, rfl⟩ | ⟨-, hc⟩
  · have elig : (s.unflip.recordOutcome v).eligible d = true := by
      have := (State.firstSlot_lt _ _ d hd).2
      simp only [State.servedBy, Bool.and_eq_true] at this
      exact this.1
    obtain ⟨filled, tag⟩ := h.waitBuffer wait
    refine hsel.invoke elig (h.waitSlots wait).1 ?_ tag
    show 0 < (if s.flip then s.bb0.invert else s.bb0).rows.length
    split
    · simpa using filled
    · exact filled
  · exact State.Selecting.selects hc hsel

/-! ### Every command and every step -/

/-- Every effect of a command keeps the invariant. -/
theorem Effect.keeps_inv {s t : State} {i : Instr} (e : Effect s i t) (h : s.Inv) : t.Inv := by
  cases e with
  | refused _ c => exact h.refuse c
  | null => exact h.accept
  | result _ v => exact (h.setRes0 v).accept
  | results _ v w => exact ((h.setRes0 v).setRes1 w).accept
  | scratch _ a bs inside => exact (h.writeScr a bs inside).accept
  | clear0 free => exact (h.clear0 free).accept
  | clear1 => exact (h.setBuf .bb1 BitBuf.fits_empty nofun).accept
  | append b _ v free fits => exact (h.setBuf b (fits (h.buf_fits b)) free).accept
  | secondStage _ dst _ _ free out v w =>
    exact (((h.setBuf dst (BitBuf.fits_addBits out _ (h.buf_fits dst)) free).setRes0 v).setRes1 w).accept
  | invert b free => exact (h.setBuf b (BitBuf.fits_invert _ (h.buf_fits b)) free).accept
  | flip wait => exact (h.flip wait).accept
  | demod free c v => exact ((h.demodulate c free).setRes0 v).accept
  | regInit free => exact (h.emptyRegistry .opened free).accept
  | regTeardown free => exact (h.emptyRegistry .uninit free).accept
  | regAdd opened valid room => exact (h.regAdd opened valid room).accept
  | regLock _ => exact h.regLock.accept
  | dspStart locked _ train sel => exact (State.Selecting.selects sel (.clearDispatch h locked train)).accept
  | dspSuccess wait v sel =>
    have fewer : (s.unflip.recordOutcome v).nmatch.toNat < (s.unflip.recordOutcome v).natt.toNat := by
      rw [h.natt_recordOutcome v]
      exact Nat.lt_succ_of_le h.counts.1
    exact (State.Selecting.selects sel ((State.Selecting.recordOutcome h wait v).recordSuccess v fewer)).accept
  | dspFailure wait v sel => exact (h.selectsDecoder wait v sel).accept
  | dspAck done => exact (h.dspAck done).accept

/-- An issued word runs its command or is refused (R104). -/
theorem State.issue_runs_or_refuses (s t : State) (w : Word) (h : State.issue w s = .next t) :
    (∃ i, exec i { s with lastCmd := w } = .next t) ∨ ∃ c, t = State.refuse c { s with lastCmd := w } := by
  simp only [State.issue] at h
  split at h
  · exact .inl ⟨_, h⟩
  · cases h; exact .inr ⟨.opcode, rfl⟩
  · cases h; exact .inr ⟨.field, rfl⟩

theorem State.Inv.issue {s t : State} (h : s.Inv) (w : Word) (hi : State.issue w s = .next t) : t.Inv := by
  rcases s.issue_runs_or_refuses t w hi with ⟨i, hx⟩ | ⟨c, rfl⟩
  · exact (exec_effect i _ t hx).keeps_inv (h.setLastCmd w)
  · exact (h.setLastCmd w).refuse c

/-- Settles O56: whatever a step serves, each operation it is made of keeps the invariant. -/
theorem everyStepKeepsInvariant : Obligations.EveryStepKeepsInvariant := by
  intro s t h hstep
  rcases step_cases s t hstep with ⟨rfl, -⟩ | ⟨rest, r, -, rfl⟩ | ⟨rest, -, rfl⟩ | ⟨rest, size, a, v, -, hw⟩
  · exact h
  · exact h.served rest r
  · exact State.Inv.afterReset rest s.evt _
  · have served := h.served rest .done
    rcases hw with rfl | ⟨r, hp, rfl, -⟩ | ⟨ram, aligned, rfl⟩ | ⟨-, -, hi⟩
    · exact h.served rest .busError
    · exact served.writePage v r hp
    · exact served.writeBytesAt a.toNat size v (ram.imp_right fun g => ⟨g.1, g.2.1⟩) aligned
    · exact served.issue v hi

end Sys2Proof.Machine

namespace Sys2Proof.Machine

/-! ## Which commands change which field (O14)

One lemma per clause, each by the effects of the commands: the cases named are those that write the field, or that leave it
by a lemma; every other effect leaves it by definition. -/

section Frames

variable {s t : State} {i : Instr}

/-! Membership by inclusion of the lists, so that `decide` has two closed lists to compare. -/

theorem mem_of_mem_subset {l l' : List Instr} (hi : i ∈ l) (hs : l ⊆ l') : i ∈ l' := hs hi

theorem notMem_of_mem_apart {l l' : List Instr} (hi : i ∈ l) (hs : ∀ j ∈ l, j ∉ l') : i ∉ l' := hs i hi

/-! The clauses, in the order of the statement. -/

theorem Effect.hostFields (e : Effect s i t) :
    t.arg0 = s.arg0 ∧ t.arg1 = s.arg1 ∧ t.arg2 = s.arg2 ∧ t.arg3 = s.arg3 ∧ t.desc = s.desc ∧ t.ie = s.ie ∧
      t.ptLen = s.ptLen ∧ t.lastCmd = s.lastCmd ∧ t.requests = s.requests ∧ t.resp = s.resp ∧ t.epoch = s.epoch := by
  cases e with
  | append b | invert b => simp
  | secondStage src dst => simp
  | dspStart _ _ _ sel | dspSuccess _ _ sel | dspFailure _ _ sel => rw [sel.frame]; simp
  | _ => simp

theorem Effect.byteAt (e : Effect s i t) (a : Nat) (h : t.byteAt a ≠ s.byteAt a) :
    (0x400 ≤ a ∧ a < 0x800) ∧ i ∈ [.reflb, .bbExtract .bb0, .bbExtract .bb1] := by
  cases e with
  | scratch hi b bs inside =>
    refine ⟨?_, hi⟩
    by_contra hout
    refine h (s.byteAt_writeBytesAt_of_outside _ a bs ?_)
    simp only [Config.scrBase]
    omega
  | append b | invert b => exact absurd (State.byteAt_congr _ _ (by simp) (by simp) a) h
  | secondStage src dst => exact absurd (State.byteAt_congr _ _ (by simp) (by simp) a) h
  | dspStart _ _ _ sel | dspSuccess _ _ sel | dspFailure _ _ sel =>
    exact absurd (State.byteAt_congr _ _ (congrArg State.mem sel.frame) (congrArg State.epoch sel.frame) a) h
  | _ => exact absurd rfl h

theorem Effect.res1 (e : Effect s i t) (h : t.res1 ≠ s.res1) :
    i ∈ [.lfsr8, .lfsr8r, .lfsr16, .lfsr16r, .bbInfo .bb0, .bbInfo .bb1, .bbSearch .bb0, .bbSearch .bb1,
      .bbManch .bb0 .bb1, .bbManch .bb1 .bb0, .bbDmanch .bb0 .bb1, .bbDmanch .bb1 .bb0] := by
  cases e with
  | results hi => exact mem_of_mem_subset hi (by decide)
  | secondStage src dst hi differ =>
    cases src <;> cases dst
    · exact absurd rfl differ
    · exact mem_of_mem_subset hi (by decide)
    · exact mem_of_mem_subset hi (by decide)
    · exact absurd rfl differ
  | append b | invert b => exact absurd (by simp) h
  | dspStart _ _ _ sel | dspSuccess _ _ sel | dspFailure _ _ sel => exact absurd (congrArg State.res1 sel.frame) h
  | _ => exact absurd rfl h

theorem Effect.res0 (e : Effect s i t) (h : t.res0 ≠ s.res0) :
    i ∉ [.nop, .reflb, .bbClear .bb0, .bbClear .bb1, .bbAddrow .bb0, .bbAddrow .bb1, .bbAddbit .bb0, .bbAddbit .bb1,
      .bbAddbits .bb0, .bbAddbits .bb1, .bbInvert .bb0, .bbInvert .bb1, .bbExtract .bb0, .bbExtract .bb1, .regInit,
      .regTeardown, .dspStart, .dspReturn, .dspAck] := by
  cases e with
  | result hi => exact notMem_of_mem_apart hi (by decide)
  | results hi => exact notMem_of_mem_apart hi (by decide)
  | secondStage src dst hi =>
    cases src <;> cases dst <;> exact notMem_of_mem_apart hi (by decide)
  | demod | regAdd | regLock => decide
  | append b | invert b => exact absurd (by simp) h
  | dspStart _ _ _ sel | dspSuccess _ _ sel | dspFailure _ _ sel => exact absurd (congrArg State.res0 sel.frame) h
  | _ => exact absurd rfl h

theorem Effect.bb0 (e : Effect s i t) (h : t.bb0 ≠ s.bb0) :
    i ∈ [.bbClear .bb0, .bbAddrow .bb0, .bbAddbit .bb0, .bbAddbits .bb0, .bbInvert .bb0, .bbManch .bb1 .bb0,
      .bbDmanch .bb1 .bb0, .demod, .dspStart, .dspReturn] := by
  cases e with
  | clear0 | flip | demod | dspStart | dspSuccess | dspFailure => decide
  | append b hi =>
    cases b with
    | bb0 => exact mem_of_mem_subset hi (by decide)
    | bb1 => exact absurd rfl h
  | invert b =>
    cases b with
    | bb0 => decide
    | bb1 => exact absurd rfl h
  | secondStage src dst hi differ =>
    cases dst with
    | bb0 =>
      cases src with
      | bb0 => exact absurd rfl differ
      | bb1 => exact mem_of_mem_subset hi (by decide)
    | bb1 => exact absurd rfl h
  | _ => exact absurd rfl h

theorem Effect.bb1 (e : Effect s i t) (h : t.bb1 ≠ s.bb1) :
    i ∈ [.bbClear .bb1, .bbAddrow .bb1, .bbAddbit .bb1, .bbAddbits .bb1, .bbInvert .bb1, .bbManch .bb0 .bb1,
      .bbDmanch .bb0 .bb1, .dspStart, .dspReturn] := by
  cases e with
  | clear1 | dspStart | dspSuccess | dspFailure => decide
  | append b hi =>
    cases b with
    | bb0 => exact absurd rfl h
    | bb1 => exact mem_of_mem_subset hi (by decide)
  | invert b =>
    cases b with
    | bb0 => exact absurd rfl h
    | bb1 => decide
  | secondStage src dst hi differ =>
    cases dst with
    | bb0 => exact absurd rfl h
    | bb1 =>
      cases src with
      | bb0 => exact mem_of_mem_subset hi (by decide)
      | bb1 => exact absurd rfl differ
  | _ => exact absurd rfl h

theorem Effect.tag (e : Effect s i t) (h : t.tagV ≠ s.tagV ∨ t.tagSlot ≠ s.tagSlot) :
    i ∈ [.bbClear .bb0, .demod, .dspStart, .dspReturn] := by
  cases e with
  | clear0 | demod | dspStart | dspSuccess | dspFailure => decide
  | _ => simp at h

theorem Effect.reg (e : Effect s i t) (h : t.reg ≠ s.reg) : i ∈ [.regInit, .regAdd, .regTeardown] := by
  cases e with
  | regInit | regTeardown | regAdd => decide
  | append b | invert b | secondStage src dst => exact absurd (by simp) h
  | dspStart _ _ _ sel | dspSuccess _ _ sel | dspFailure _ _ sel => exact absurd (congrArg State.reg sel.frame) h
  | _ => exact absurd rfl h

theorem Effect.rst (e : Effect s i t) (h : t.rst ≠ s.rst) : i ∈ [.regInit, .regLock, .regTeardown] := by
  cases e with
  | regInit | regTeardown | regLock => decide
  | append b | invert b | secondStage src dst => exact absurd (by simp) h
  | dspStart _ _ _ sel | dspSuccess _ _ sel | dspFailure _ _ sel => exact absurd (congrArg State.rst sel.frame) h
  | _ => exact absurd rfl h

theorem Effect.flipLatch (e : Effect s i t) (h : t.flip ≠ s.flip) : i ∈ [.bbInvert .bb0, .dspStart, .dspReturn] := by
  cases e with
  | flip | dspStart | dspSuccess | dspFailure => decide
  | append b | invert b | secondStage src dst => exact absurd (by simp) h
  | _ => exact absurd rfl h

theorem Effect.dst (e : Effect s i t) (h : t.dst ≠ s.dst) : i ∈ [.dspStart, .dspReturn, .dspAck] := by
  cases e with
  | dspStart | dspSuccess | dspFailure | dspAck => decide
  | append b | invert b | secondStage src dst => exact absurd (by simp) h
  | _ => exact absurd rfl h

theorem Effect.dispatcher (e : Effect s i t)
    (h : t.cand ≠ s.cand ∨ t.cur ≠ s.cur ∨ t.tried ≠ s.tried ∨ t.nrec ≠ s.nrec ∨ t.natt ≠ s.natt ∨
      t.nmatch ≠ s.nmatch ∨ t.last ≠ s.last ∨ t.matchV ≠ s.matchV ∨ t.matchSlot ≠ s.matchSlot) :
    i ∈ [.dspStart, .dspReturn] := by
  cases e with
  | dspStart | dspSuccess | dspFailure => decide
  | _ => simp at h

theorem Effect.evt (e : Effect s i t) (h : t.evt ≠ s.evt) : i = .dspReturn := by
  cases e with
  | dspSuccess | dspFailure => rfl
  | append b | invert b | secondStage src dst => exact absurd (by simp) h
  | dspStart _ _ _ sel => exact absurd (congrArg State.evt sel.frame) h
  | _ => exact absurd rfl h

end Frames

/-- Settles O14: each clause holds of every effect of a command. -/
theorem commandsChangeOnlyTheirState : Obligations.CommandsChangeOnlyTheirState := by
  intro i s t h
  have e := exec_effect i s t h
  exact ⟨e.hostFields, e.byteAt, e.res1, e.res0, e.bb0, e.bb1, e.tag, e.reg, e.rst, e.flipLatch, e.dst, e.dispatcher,
    e.evt⟩

end Sys2Proof.Machine

/-!
PROOFS of the family 20_memory.md: bus errors, the answers of the bus, and the memories `SCR` and `PT`.
-/

namespace Sys2Proof.Machine

/-! ## Every access is answered (20_memory.md R75, R76) -/

/-- The model's tests of R76 find an error where an access errs. -/
theorem State.busCheck_of_errs {s : State} {isWrite : Bool} {size : Size} {a : Nat} (h : s.accessErrs isWrite size a) :
    ∃ e, s.busCheck isWrite size a = .error e :=
  (s.busCheck_cases isWrite size a).elim And.right fun ⟨ok, _⟩ => absurd h ok

/-- The model's tests of R76 answer the target where no access errs. -/
theorem State.busCheck_of_not_errs {s : State} {isWrite : Bool} {size : Size} {a : Nat}
    (h : ¬ s.accessErrs isWrite size a) : ∃ t, targetOf a = some t ∧ s.busCheck isWrite size a = .ok t :=
  (s.busCheck_cases isWrite size a).elim (fun ⟨errs, _⟩ => absurd errs h) And.right

section Answers

variable (s : State) (rest : List Request) (size : Size) (a : BusAddr) (v : Word)

theorem step_read_of_errs (h : s.accessErrs false size a.toNat) :
    step { s with requests := .read size a :: rest } = .next { s with requests := rest, resp := .busError } := by
  obtain ⟨e, hc⟩ : ∃ e, State.busCheck { s with requests := .read size a :: rest } false size a.toNat = .error e :=
    State.busCheck_of_errs h
  rw [step_read _ size a rest rfl, hc]

/-- A read that does not err returns what its target holds (R75). -/
theorem step_read_of_not_errs {t : Target} (h : ¬ s.accessErrs false size a.toNat) (ht : targetOf a.toNat = some t) :
    step { s with requests := .read size a :: rest } =
      .next { s with requests := rest, resp := .data (s.readTarget size a.toNat t) } := by
  obtain ⟨t', ht', hc⟩ : ∃ t', targetOf a.toNat = some t' ∧
      State.busCheck { s with requests := .read size a :: rest } false size a.toNat = .ok t' :=
    State.busCheck_of_not_errs h
  obtain rfl : t = t' := Option.some.inj (ht.symm.trans ht')
  rw [step_read _ size a rest rfl, hc]
  cases t with
  | page r => cases r <;> rfl
  | _ => rfl

theorem step_write_of_errs (h : s.accessErrs true size a.toNat) :
    step { s with requests := .write size a v :: rest } = .next { s with requests := rest, resp := .busError } := by
  obtain ⟨e, hc⟩ : ∃ e, State.busCheck { s with requests := .write size a v :: rest } true size a.toNat = .error e :=
    State.busCheck_of_errs h
  rw [step_write _ size a v rest rfl, hc]

/-- A write that does not err is answered and goes to its target (R75). -/
theorem step_write_of_not_errs {t : Target} (h : ¬ s.accessErrs true size a.toNat) (ht : targetOf a.toNat = some t) :
    step { s with requests := .write size a v :: rest } =
      State.writeTarget size a.toNat v { s with requests := rest, resp := .done } t := by
  obtain ⟨t', ht', hc⟩ : ∃ t', targetOf a.toNat = some t' ∧
      State.busCheck { s with requests := .write size a v :: rest } true size a.toNat = .ok t' :=
    State.busCheck_of_not_errs h
  obtain rfl : t = t' := Option.some.inj (ht.symm.trans ht')
  rw [step_write _ size a v rest rfl, hc]

end Answers

/-! ### The answer stays what the bus gave -/

@[simp] theorem State.writePage_resp (s : State) (v : Word) (r : PageReg) : (s.writePage v r).resp = s.resp := by
  cases r <;> rfl

/-- A command word, run or refused, leaves the answer to the write that carried it (R283). -/
theorem State.resp_of_issue {s t : State} {w : Word} (h : State.issue w s = .next t) : t.resp = s.resp := by
  rcases s.issue_runs_or_refuses t w h with ⟨i, hx⟩ | ⟨c, rfl⟩
  · obtain ⟨-, -, -, -, -, -, -, -, -, hresp, -⟩ := (exec_effect i _ t hx).hostFields
    exact hresp
  · rfl

theorem State.resp_of_writeTarget {s u : State} {size : Size} {a : Nat} {v : Word} {t : Target}
    (h : s.writeTarget size a v t = .next u) : u.resp = s.resp := by
  cases t with
  | page r =>
    by_cases hr : r = .cmd
    · subst hr
      exact State.resp_of_issue h
    · simp only [State.writeTarget, if_neg hr] at h
      cases h
      exact s.writePage_resp v r
  | scr | pt | reg => cases h; rfl

/-- Settles O7: the tests of R76 decide between the error answer and the target, and no target changes the answer. -/
theorem busErrorChangesNothing : Obligations.BusErrorChangesNothing := by
  intro s rest size a
  refine ⟨step_read_of_errs s rest size a, fun ok => ?_, fun v =>
    ⟨step_write_of_errs s rest size a v, fun ok t hstep => ?_⟩⟩
  · obtain ⟨target, ht, -⟩ := State.busCheck_of_not_errs ok
    exact ⟨_, step_read_of_not_errs s rest size a ok ht⟩
  · obtain ⟨target, ht, -⟩ := State.busCheck_of_not_errs ok
    rw [step_write_of_not_errs s rest size a v ok ht] at hstep
    exact State.resp_of_writeTarget hstep

/-! ## `SCR` and `PT` (20_memory.md R72, R78) -/

/-- The low bytes of a word put together again are its value below their width (R72). -/
theorem toNat_leWord_leBytes (n : Nat) (hn : n ≤ 4) (v : Word) : (leWord (leBytes n v)).toNat = v.toNat % 2 ^ (8 * n) := by
  induction n generalizing v with
  | zero => simp [leBytes, leWord, Nat.mod_one]
  | succ n ih =>
    have rest : (leWord (leBytes n (v >>> 8))).toNat = v.toNat / 2 ^ 8 % 2 ^ (8 * n) := by
      rw [ih (by omega), BitVec.toNat_ushiftRight, Nat.shiftRight_eq_div_pow]
    have bound : (leWord (leBytes n (v >>> 8))).toNat < 2 ^ 24 := by
      rw [rest]
      exact Nat.lt_of_lt_of_le (Nat.mod_lt _ (by positivity)) (Nat.pow_le_pow_right (by decide) (by omega))
    calc (leWord (leBytes (n + 1) v)).toNat
        = v.toNat % 2 ^ 8 + 2 ^ 8 * (v.toNat / 2 ^ 8 % 2 ^ (8 * n)) := by
          rw [leBytes, toNat_leWord_cons _ _ bound, rest, BitVec.toNat_setWidth, show 256 = 2 ^ 8 from rfl]
      _ = v.toNat % 2 ^ (8 * (n + 1)) := by
          rw [← Nat.mod_mul, ← Nat.pow_add, Nat.mul_succ, Nat.add_comm]

/-- The bytes of a store are read back from its address (R78). -/
theorem State.bytesAt_writeBytesAt (s : State) (a : Nat) (bs : List Byte) :
    (s.writeBytesAt a bs).bytesAt a bs.length = bs := by
  refine List.ext_getElem (State.length_bytesAt _ _ _) fun j _ hj => ?_
  rw [State.getElem_bytesAt, State.byteAt_writeBytesAt_of_inside _ _ _ _ hj]

/-- An access HOST can make to `SCR`, or to `PT` while no decoder is awaited (R71, R74, R76). -/
def State.ramAccess (s : State) (size : Size) (a : Nat) : Prop :=
  ((0x400 ≤ a ∧ a < 0x800) ∨ (0x2000 ≤ a ∧ a < 0x4000 ∧ size = .four ∧ s.dst ≠ .waitDecode)) ∧ a % size.bytes = 0

theorem State.not_accessErrs_of_ramAccess {s : State} {size : Size} {a : Nat} (h : s.ramAccess size a) (isWrite : Bool) :
    ¬ s.accessErrs isWrite size a := by
  obtain ⟨region, aligned⟩ := h
  rintro (unmapped | ⟨narrow, notScr⟩ | misaligned | ⟨-, readOnly⟩ | ⟨-, frozen, wait⟩)
  · simp only [mapped] at unmapped; omega
  · rcases region with scr | ⟨-, -, word, -⟩
    · exact notScr scr
    · exact narrow word
  · exact misaligned aligned
  · simp only [writeProtected] at readOnly; omega
  · rcases region with scr | ⟨-, -, -, free⟩
    · omega
    · exact free wait

theorem targetOf_ramAccess {s : State} {size : Size} {a : Nat} (h : s.ramAccess size a) :
    targetOf a = some .scr ∨ targetOf a = some .pt := by
  obtain ⟨scr | ⟨low, high, -, -⟩, -⟩ := h
  · exact .inl (targetOf_scr a scr)
  · exact .inr (targetOf_pt a ⟨low, high⟩)

/-- A write to `SCR` or `PT` stores its data's low bytes. -/
theorem step_write_ram (s : State) (rest : List Request) (size : Size) (a : BusAddr) (v : Word)
    (h : s.ramAccess size a.toNat) :
    step { s with requests := .write size a v :: rest } =
      .next (State.writeBytesAt a.toNat (leBytes size.bytes v) { s with requests := rest, resp := .done }) := by
  rcases targetOf_ramAccess h with ht | ht <;>
    rw [step_write_of_not_errs s rest size a v (State.not_accessErrs_of_ramAccess h true) ht] <;> rfl

/-- A read of `SCR` or `PT` returns the bytes there, zero-extended. -/
theorem step_read_ram (s : State) (rest : List Request) (size : Size) (a : BusAddr) (h : s.ramAccess size a.toNat) :
    step { s with requests := .read size a :: rest } =
      .next { s with requests := rest, resp := .data (leWord (s.bytesAt a.toNat size.bytes)) } := by
  rcases targetOf_ramAccess h with ht | ht <;>
    rw [step_read_of_not_errs s rest size a (State.not_accessErrs_of_ramAccess h false) ht] <;> rfl

/-- What a stored word's bytes read back as, a narrow one zero-extended (log 10). -/
theorem State.leWord_bytesAt_written (s : State) (size : Size) (a : Nat) (v : Word) :
    leWord ((s.writeBytesAt a (leBytes size.bytes v)).bytesAt a size.bytes) =
      BitVec.ofNat 32 (v.toNat % 2 ^ (8 * size.bytes)) := by
  have back := s.bytesAt_writeBytesAt a (leBytes size.bytes v)
  rw [length_leBytes] at back
  have narrow : size.bytes ≤ 4 := by cases size <;> decide
  rw [back, ← toNat_leWord_leBytes _ narrow, BitVec.ofNat_toNat, BitVec.setWidth_eq]

/-- Settles O8: the write stores the data's bytes, which byte by byte are its eight-bit fields, and the read that follows
puts them together again. -/
theorem memoryWriteThenReadReturnsData : Obligations.MemoryWriteThenReadReturnsData := by
  intro s rest size a v region aligned
  have ram : s.ramAccess size a.toNat := ⟨region, aligned⟩
  refine ⟨_, step_write_ram s _ size a v ram, rfl, fun b => ?_, ?_⟩
  · rw [State.byteAt_writeBytesAt]
    simp only [length_leBytes, getElem_leBytes, dite_eq_ite]
    rfl
  · rw [← State.leWord_bytesAt_written { s with requests := .read size a :: rest, resp := .done }]
    exact step_read_ram (State.writeBytesAt _ _ { s with requests := _, resp := .done }) rest size a ram

end Sys2Proof.Machine

/-!
PROOFS of the family 30_encoding.md: the decoder against the encoder, the refusals of a command word, and `NOP`.
-/

namespace Sys2Proof

open Machine

/-! ## The fields of a command word (R101) -/

theorem toNat_opcOf (w : Word) : (opcOf w).toNat = w.toNat % 256 := by
  rw [opcOf, BitVec.toNat_and]
  exact Nat.and_two_pow_sub_one_eq_mod w.toNat 8

/-- The buffer fields of a word are its bits [9:8]. -/
theorem commandWord_bits (w : Word) :
    commandWord 0#32 (.ofBit (w.getLsbD 8)) (.ofBit (w.getLsbD 9)) = w &&& 0x300#32 := by
  have split : w &&& 0x300#32 = (w &&& BitVec.twoPow 32 8) ||| (w &&& BitVec.twoPow 32 9) := by
    rw [← BitVec.and_or_distrib_left]; rfl
  rw [split, BitVec.and_twoPow, BitVec.and_twoPow]
  cases w.getLsbD 8 <;> cases w.getLsbD 9 <;> rfl

/-! ## The rows of the opcode map (R102, R103) -/

/-- The only bits a row leaves free are those of `BS` and `BD`. -/
theorem opTable_free_bits : ∀ r ∈ opTable, 0x300#32 &&& ~~~r.mask = ~~~r.mask := by decide

/-- The word of a row's command: the row's opcode, and the buffer fields the row leaves free. -/
theorem opTable_encode : ∀ r ∈ opTable, ∀ bs bd : Bool,
    encode (r.build (.ofBit bs) (.ofBit bd)) = r.pattern ||| (commandWord 0#32 (.ofBit bs) (.ofBit bd) &&& ~~~r.mask) := by
  decide

/-- The row of `NOP` leaves no bit free (R102). -/
theorem opTable_mask_of_opcode_zero : ∀ r ∈ opTable, r.pattern = 0#32 → r.mask = BitVec.allOnes 32 := by decide

/-- The opcodes of R103 are those of the rows. -/
theorem definedOpcodes_eq_map : definedOpcodes = opTable.map fun r => r.pattern.toNat := by decide

/-- A word that has a row's fixed bits is the word of the command the row builds from it. -/
theorem encode_build_of_matches {r : OpRow} (hr : r ∈ opTable) {w : Word} (hw : w &&& r.mask = r.pattern) :
    encode (r.build (.ofBit (w.getLsbD 8)) (.ofBit (w.getLsbD 9))) = w :=
  calc encode (r.build (.ofBit (w.getLsbD 8)) (.ofBit (w.getLsbD 9)))
      = r.pattern ||| (w &&& 0x300#32 &&& ~~~r.mask) := by rw [opTable_encode r hr, commandWord_bits]
    _ = (w &&& r.mask) ||| (w &&& ~~~r.mask) := by rw [hw, BitVec.and_assoc, opTable_free_bits r hr]
    _ = w := by rw [← BitVec.and_or_distrib_left, BitVec.or_not_self, BitVec.and_allOnes]

/-! ## What `decode` answers -/

/-- A word's opcode is found in the opcode map exactly if it is defined. -/
theorem find?_opTable_eq_none_iff (w : Word) :
    opTable.find? (fun r => r.pattern == opcOf w) = none ↔ w.toNat % 256 ∉ definedOpcodes := by
  simp [definedOpcodes_eq_map, ← toNat_opcOf, BitVec.toNat_inj]

/-- What `decode` can answer: the command of the row whose fixed bits the word has, or one of the two refusals, the opcode
tested first (R104). -/
theorem decode_cases (w : Word) :
    (decode w = .error .unknownOpcode ∧ w.toNat % 256 ∉ definedOpcodes) ∨
      (w.toNat % 256 ∈ definedOpcodes ∧
        ((∃ r ∈ opTable, r.pattern = opcOf w ∧ w &&& r.mask = r.pattern ∧
            decode w = .ok (r.build (.ofBit (w.getLsbD 8)) (.ofBit (w.getLsbD 9)))) ∨
          decode w = .error .reservedField)) := by
  have defined := find?_opTable_eq_none_iff w
  rw [decode]
  cases hf : opTable.find? (fun r => r.pattern == opcOf w) with
  | none => exact .inl ⟨rfl, defined.1 hf⟩
  | some r =>
    refine .inr ⟨by_contra fun undefined => ?_, ?_⟩
    · rw [defined.2 undefined] at hf; cases hf
    · by_cases hw : w &&& r.mask = r.pattern
      · exact .inl ⟨r, List.mem_of_find?_eq_some hf, by simpa using List.find?_some hf, hw, if_pos hw⟩
      · exact .inr (if_neg hw)

/-- The round trip, command by command and buffer by buffer (R108). -/
theorem decode_encode (i : Instr) : decode (encode i) = .ok i := by
  cases i with
  | bbManch s d | bbDmanch s d => cases s <;> cases d <;> rfl
  | bbClear s | bbAddrow s | bbAddbit s | bbAddbits s | bbInfo s | bbRowlen s | bbGetbit s | bbInvert s | bbSearch s
  | bbExtract s | bbCmprows s | bbFindrep s | bbFindpfx s => cases s <;> rfl
  | _ => rfl

theorem encode_of_decode {w : Word} {i : Instr} (h : decode w = .ok i) : encode i = w := by
  rcases decode_cases w with ⟨hd, -⟩ | ⟨-, ⟨r, hr, -, hw, hd⟩ | hd⟩ <;> rw [hd] at h <;> cases h
  exact encode_build_of_matches hr hw

theorem decode_eq_ok_iff (w : Word) (i : Instr) : decode w = .ok i ↔ encode i = w :=
  ⟨encode_of_decode, fun h => h ▸ decode_encode i⟩

theorem decode_eq_unknownOpcode {w : Word} (undefined : w.toNat % 256 ∉ definedOpcodes) :
    decode w = .error .unknownOpcode :=
  (decode_cases w).elim And.left fun ⟨defined, _⟩ => absurd defined undefined

theorem decode_eq_reservedField {w : Word} (defined : w.toNat % 256 ∈ definedOpcodes) (foreign : ∀ i, encode i ≠ w) :
    decode w = .error .reservedField := by
  rcases decode_cases w with ⟨-, undefined⟩ | ⟨-, ⟨r, hr, -, hw, -⟩ | hd⟩
  · exact absurd defined undefined
  · exact absurd (encode_build_of_matches hr hw) (foreign _)
  · exact hd

/-- Settles O1: a word that decodes has the fixed bits of one row, and these with its buffer fields are the whole word; the
other direction is the round trip of the commands. -/
theorem decodeReadsExactlyEncodedWords : Obligations.DecodeReadsExactlyEncodedWords := decode_eq_ok_iff

/-- Settles O2: each word is its command's by the encoder, the last two are no command's. -/
theorem specWordsDecodeToTheirCommands : Obligations.SpecWordsDecodeToTheirCommands :=
  ⟨decode_encode .nop, decode_encode .crc8r, decode_encode .lfsr16, decode_encode (.bbSearch .bb0),
    decode_encode (.bbAddbits .bb1), decode_encode (.bbManch .bb0 .bb1), decode_encode (.bbDmanch .bb1 .bb0),
    decode_encode .demod, decode_encode .regAdd, decode_encode .dspReturn, decode_eq_unknownOpcode (by decide), rfl⟩

end Sys2Proof

namespace Sys2Proof.Machine

/-! ## An issued word (30_encoding.md R100, R104) -/

theorem State.issue_of_ok {w : Word} {i : Instr} (s : State) (h : decode w = .ok i) :
    s.issue w = exec i { s with lastCmd := w } := by
  rw [State.issue, h]

theorem State.issue_of_unknownOpcode {w : Word} (s : State) (h : decode w = .error .unknownOpcode) :
    s.issue w = .next { s with lastCmd := w, status := 1 } := by
  rw [State.issue, h]; rfl

theorem State.issue_of_reservedField {w : Word} (s : State) (h : decode w = .error .reservedField) :
    s.issue w = .next { s with lastCmd := w, status := 2 } := by
  rw [State.issue, h]; rfl

/-- A command word given as its number is the word itself. -/
theorem State.withFetchWord_toNat (s : State) (w : Word) : s.withFetchWord 32 w.toNat = s.presentCommand w := by
  rw [State.withFetchWord, Nat.mod_eq_of_lt w.isLt, BitVec.ofNat_toNat, BitVec.setWidth_eq]

/-- Settles O4: the step issues the word, and an issued word that decodes is run. -/
theorem stepRunsDecodedCommand : Obligations.StepRunsDecodedCommand := by
  refine ⟨fun s w rest i hs hd => ?_, fun s w i hd => ?_⟩
  · rw [step_issue s w rest hs, State.issue_of_ok _ hd]
  · rw [s.withFetchWord_toNat w, step_issue _ w s.requests rfl, State.issue_of_ok _ hd]
    rfl

/-- Settles O3: the step issues the word, and each of the three cases is one answer of `decode`. -/
theorem issuedWordsRunOrAreRefused : Obligations.IssuedWordsRunOrAreRefused := by
  intro s w rest t issued
  have issues : issued = State.issue w { s with requests := rest, resp := .done } := step_issue _ w rest rfl
  refine ⟨fun undefined => ?_, fun defined foreign => ?_, fun i hi => ?_⟩
  · exact issues.trans (State.issue_of_unknownOpcode _ (decode_eq_unknownOpcode undefined))
  · exact issues.trans (State.issue_of_reservedField _ (decode_eq_reservedField defined foreign))
  · exact issues.trans (State.issue_of_ok _ ((decode_eq_ok_iff w i).2 hi))

/-- Settles O18: opcode 0 is that of the row of `NOP` alone, which fixes every bit of the word. -/
theorem nopClearsStatusOnly : Obligations.NopClearsStatusOnly := by
  refine ⟨rfl, fun _ => rfl, fun w low dirty => ?_⟩
  rcases decode_cases w with ⟨-, undefined⟩ | ⟨-, ⟨r, hr, opcode, hw, -⟩ | rejected⟩
  · rw [low] at undefined
    exact absurd (by decide) undefined
  · have zero : r.pattern = 0#32 := opcode.trans (BitVec.eq_of_toNat_eq ((toNat_opcOf w).trans low))
    rw [opTable_mask_of_opcode_zero r hr zero, BitVec.and_allOnes, zero] at hw
    exact absurd hw dirty
  · exact rejected

end Sys2Proof.Machine

/-!
PROOFS of the family 40_checksum.md: the CRC, fold and LFSR commands against their reference forms, and bit reversal.
-/

namespace Sys2Proof.Machine

/-! ## Commands over a slice (40_checksum.md R120) -/

/-- The message `m` of a checksum command: the bytes of the scratch slice (`ARG0`, `ARG1`). -/
abbrev State.message (s : State) : List Byte := s.bytesAt (0x400 + s.arg0.toNat) s.arg1.toNat

section Slices

variable {s : State}

theorem next_onSlice_inside {k : List Byte → State} (legal : s.arg0.toNat + s.arg1.toNat ≤ 1024) :
    (.next (s.onSlice k) : Result) = .next (k s.message).accept :=
  congrArg _ (s.onSlice_of_le k legal)

theorem next_onSlice_outside {k : List Byte → State} (outside : 1024 < s.arg0.toNat + s.arg1.toNat) :
    (.next (s.onSlice k) : Result) = .next { s with status := 6 } :=
  congrArg _ (s.onSlice_of_gt k outside)

variable (legal : s.arg0.toNat + s.arg1.toNat ≤ 1024)
include legal

/-! What each command leaves when its slice is inside `SCR`: results in `RES0` and `RES1`, `STATUS` 0. -/

theorem exec_crc8 : exec .crc8 s = .next { s with
    res0 := (crc 8 (low8 s.arg2) (low8 s.arg3) s.message).setWidth 32, status := 0 } :=
  next_onSlice_inside legal

theorem exec_crc8r : exec .crc8r s = .next { s with
    res0 := (crcR 8 (low8 s.arg2) (low8 s.arg3) s.message).setWidth 32, status := 0 } :=
  next_onSlice_inside legal

theorem exec_crc16 : exec .crc16 s = .next { s with
    res0 := (crc 16 (low16 s.arg2) (low16 s.arg3) s.message).setWidth 32, status := 0 } :=
  next_onSlice_inside legal

theorem exec_crc16r : exec .crc16r s = .next { s with
    res0 := (crcR 16 (low16 s.arg2) (low16 s.arg3) s.message).setWidth 32, status := 0 } :=
  next_onSlice_inside legal

theorem exec_xorb : exec .xorb s = .next { s with res0 := (xorBytes s.message).setWidth 32, status := 0 } :=
  next_onSlice_inside legal

theorem exec_addb : exec .addb s = .next { s with res0 := addBytes s.message, status := 0 } :=
  next_onSlice_inside legal

theorem exec_parb : exec .parb s = .next { s with
    res0 := (BitVec.ofBool (parityBytes s.message)).setWidth 32, status := 0 } :=
  next_onSlice_inside legal

theorem exec_lfsr8 : exec .lfsr8 s =
    .next (s.setDigest (digestBits (lfsrStep (low8 s.arg2)) (bytesBits s.message) (low8 s.arg3))).accept :=
  next_onSlice_inside legal

theorem exec_lfsr8r : exec .lfsr8r s =
    .next (s.setDigest (digestBits (lfsrStepR (low8 s.arg2)) (bytesBits s.message) (low8 s.arg3))).accept :=
  next_onSlice_inside legal

theorem exec_lfsr16 : exec .lfsr16 s =
    .next (s.setDigest (digestBits (lfsrStep (low16 s.arg2)) (bytesBits s.message) (low16 s.arg3))).accept :=
  next_onSlice_inside legal

theorem exec_lfsr16r : exec .lfsr16r s =
    .next (s.setDigest (digestBits (lfsrStepR (low16 s.arg2)) (bytesBits s.message) (low16 s.arg3))).accept :=
  next_onSlice_inside legal

theorem exec_reflb : exec .reflb s = .next (s.writeScr s.arg0.toNat (s.message.map BitVec.reverse)).accept :=
  next_onSlice_inside legal

end Slices

/-! ## Bit reversal (R133, R134) -/

/-- Settles O24: bit `k` of a reversed byte is its bit `7 - k`, counted from the top. -/
theorem refl8ReversesTheByte : Obligations.Refl8ReversesTheByte := by
  refine ⟨rfl, fun s => ⟨(low8 s.arg0).reverse, fun k hk => ?_, rfl⟩⟩
  rw [BitVec.getLsbD_reverse, low8, BitVec.getMsbD, BitVec.getLsbD_setWidth]
  simp [hk, show 7 - k < 8 by omega]

/-- What `REFLB` leaves when its slice is inside `SCR` (R134). -/
def State.reflected (s : State) : State := (s.writeScr s.arg0.toNat (s.message.map BitVec.reverse)).accept

theorem State.byteAt_reflected (s : State) (a : Nat) :
    s.reflected.byteAt a =
      if 0x400 + s.arg0.toNat ≤ a ∧ a < 0x400 + s.arg0.toNat + s.arg1.toNat then (s.byteAt a).reverse else s.byteAt a := by
  have stored := s.byteAt_writeScr s.arg0.toNat a (s.message.map BitVec.reverse)
  simp only [List.length_map, State.length_bytesAt, List.getElem_map, State.getElem_bytesAt] at stored
  refine stored.trans ?_
  split
  next inside => rw [Nat.add_sub_cancel' inside.1]
  next => rfl

/-- Reversal is its own inverse, on the slice and beside it. -/
theorem State.byteAt_reflected_reflected (s : State) (a : Nat) : s.reflected.reflected.byteAt a = s.byteAt a := by
  have arg0 : s.reflected.arg0 = s.arg0 := rfl
  have arg1 : s.reflected.arg1 = s.arg1 := rfl
  rw [State.byteAt_reflected, arg0, arg1, State.byteAt_reflected]
  split
  · exact BitVec.reverse_reverse_eq
  · rfl

/-- Settles O25: `REFLB` ends in the reflected state, with the same operands, so that it runs on the same slice again. -/
theorem reflbReversesSliceInPlace : Obligations.ReflbReversesSliceInPlace :=
  ⟨rfl, fun s => ⟨fun legal => ⟨s.reflected, s.reflected.reflected, exec_reflb legal, exec_reflb (s := s.reflected) legal,
    rfl, s.byteAt_reflected, s.byteAt_reflected_reflected⟩, fun outside => next_onSlice_outside outside⟩⟩

/-! ## The folds (R126 to R128) -/

/-- The exclusive-or of a list of bits is the parity of the number of its 1 bits. -/
theorem foldl_xor_eq_parity (vs : List Bool) (p : Bool) :
    vs.foldl (fun p v => p ^^ v) p = (p ^^ (vs.count true % 2 == 1)) := by
  induction vs generalizing p with
  | nil => simp
  | cons v vs ih =>
    rw [List.foldl_cons, ih]
    cases v
    · simp
    · rcases Nat.mod_two_eq_zero_or_one (vs.count true) with h | h <;> cases p <;> simp [Nat.add_mod, h]

/-- Bit `k` of the exclusive-or of the bytes is the parity of that bit over them (R126). -/
theorem getLsbD_xorBytes (m : List Byte) (k : Nat) :
    (xorBytes m).getLsbD k = ((m.filter fun b => b.getLsbD k).length % 2 == 1) :=
  calc (xorBytes m).getLsbD k
      = (m.map fun b => b.getLsbD k).foldl (fun p v => p ^^ v) false := by
        rw [List.foldl_map, xorBytes,
          ← List.foldl_hom (fun x : Byte => x.getLsbD k) (g₂ := fun p b => p ^^ b.getLsbD k) fun _ _ =>
            (BitVec.getLsbD_xor ..).symm, BitVec.ofNat_eq_ofNat, BitVec.getLsbD_zero]
    _ = ((m.filter fun b => b.getLsbD k).length % 2 == 1) := by
        rw [foldl_xor_eq_parity, Bool.false_xor, List.count_eq_countP, List.countP_map, List.countP_eq_length_filter]
        simp [Function.comp_def]

/-- The sum of the bytes wraps at 2^32 (R127). -/
theorem addBytes_eq_ofNat_sum (m : List Byte) : addBytes m = BitVec.ofNat 32 (m.map BitVec.toNat).sum := by
  rw [List.sum_eq_foldl, List.foldl_map, addBytes]
  refine List.foldl_hom (BitVec.ofNat 32) fun n b => ?_
  rw [BitVec.ofNat_add, BitVec.ofNat_toNat]

/-- The parity bit as a word (R128). -/
theorem setWidth_parityBytes (m : List Byte) :
    (BitVec.ofBool (parityBytes m)).setWidth 32 = BitVec.ofNat 32 ((bytesBits m).count true % 2) := by
  rw [parityBytes, foldl_xor_eq_parity]
  rcases Nat.mod_two_eq_zero_or_one ((bytesBits m).count true) with h | h <;> rw [h] <;> rfl

/-- Settles O20: each fold in the terms of the statement; outside `SCR` all three are refused by the check on the slice. -/
theorem foldCommandsReduceTheSlice : Obligations.FoldCommandsReduceTheSlice := by
  refine ⟨⟨rfl, rfl, rfl⟩, fun s => ⟨fun legal => ⟨⟨xorBytes s.message, exec_xorb legal, ?_⟩, ?_, ?_⟩,
    fun outside => ⟨next_onSlice_outside outside, next_onSlice_outside outside, next_onSlice_outside outside⟩⟩⟩
  · exact fun k _ => getLsbD_xorBytes s.message k
  · rw [exec_addb legal, addBytes_eq_ofNat_sum]
  · rw [exec_parb legal, setWidth_parityBytes]

/-! ## Mirrored registers (R122, R124, R130, R132) -/

theorem reverse_xor_reverse {w : Nat} (x y : BitVec w) : x.reverse ^^^ y.reverse = (x ^^^ y).reverse := by
  refine BitVec.eq_of_getLsbD_eq fun i _ => ?_
  simp only [BitVec.getLsbD_xor, BitVec.getLsbD_reverse, BitVec.getMsbD_xor]

theorem reverse_ushiftRight_one {w : Nat} (x : BitVec w) : x.reverse >>> 1 = (x <<< 1).reverse := by
  refine BitVec.eq_of_getLsbD_eq fun i _ => ?_
  simp only [BitVec.getLsbD_ushiftRight, BitVec.getLsbD_reverse, BitVec.getMsbD_shiftLeft, Nat.add_comm]

/-- The reflected division step on mirrored registers is the mirror image of the plain one. -/
theorem crcBitR_reverse {w : Nat} (poly rem : BitVec w) :
    crcBitR poly.reverse rem.reverse = (crcBit poly rem).reverse := by
  have out : rem.reverse.getLsbD 0 = rem.msb := BitVec.getLsbD_reverse.trans (BitVec.msb_eq_getMsbD_zero _).symm
  simp only [crcBitR, crcBit, out, reverse_ushiftRight_one]
  split
  · exact reverse_xor_reverse _ _
  · rfl

/-- The two steps of the digest are those of the CRC, so the same law holds of them (R130, R132). -/
theorem lfsrStep_reverse {w : Nat} (gen key : BitVec w) :
    lfsrStep gen.reverse key.reverse = (lfsrStepR gen key).reverse :=
  crcBitR_reverse gen key

theorem iterate_crcBitR_reverse {w : Nat} (poly rem : BitVec w) (n : Nat) :
    iterate (crcBitR poly.reverse) n rem.reverse = (iterate (crcBit poly) n rem).reverse := by
  induction n generalizing rem with
  | zero => rfl
  | succ n ih => rw [iterate, crcBitR_reverse, ih, iterate]

/-! ## CRC (R121 to R124) -/

/-- A message bit entering at the top of the remainder, the bits behind it moving up. -/
theorem crcBit_xor {w : Nat} (poly rem x : BitVec w) :
    crcBit poly (rem ^^^ x) = serialStep poly rem x.msb ^^^ (x <<< 1) := by
  rw [crcBit, serialStep, BitVec.msb_xor, BitVec.shiftLeft_xor_distrib, Bool.bne_eq_xor]
  split
  · rw [BitVec.xor_assoc, BitVec.xor_comm (x <<< 1), ← BitVec.xor_assoc]
  · rfl

/-- `n` division steps consume the top `n` bits of what was added to the remainder, one by one. -/
theorem iterate_crcBit_xor {w : Nat} (poly rem x : BitVec w) (n : Nat) :
    iterate (crcBit poly) n (rem ^^^ x) = serialCrc poly rem ((List.range n).map x.getMsbD) ^^^ (x <<< n) := by
  induction n generalizing rem x with
  | zero => simp [iterate, serialCrc]
  | succ n ih =>
    have behind : (List.range n).map (x <<< 1).getMsbD = (List.range n).map (x.getMsbD ∘ Nat.succ) :=
      List.map_congr_left fun k _ => BitVec.getMsbD_shiftLeft x 1
    rw [iterate, crcBit_xor, ih, behind, ← BitVec.shiftLeft_add, Nat.add_comm 1 n, List.range_succ_eq_map, List.map_cons,
      List.map_map, ← BitVec.msb_eq_getMsbD_zero]
    rfl

/-- A byte at the top of a register of `w` bits. -/
theorem getMsbD_byte_at_top {w : Nat} (hw : 8 ≤ w) (b : Byte) {k : Nat} (hk : k < 8) :
    (b.setWidth w <<< (w - 8)).getMsbD k = b.getMsbD k := by
  rw [BitVec.getMsbD_shiftLeft, BitVec.getMsbD_setWidth, show k + (w - 8) + 8 - w = k by omega]
  simp

/-- Eight division steps feed one byte, bit by bit. -/
theorem iterate_crcBit_byte {w : Nat} (hw : 8 ≤ w) (poly rem : BitVec w) (b : Byte) :
    iterate (crcBit poly) 8 (rem ^^^ b.setWidth w <<< (w - 8)) = serialCrc poly rem (byteBits b) := by
  have bits : (List.range 8).map (b.setWidth w <<< (w - 8)).getMsbD = byteBits b :=
    List.map_congr_left fun k hk => getMsbD_byte_at_top hw b (List.mem_range.1 hk)
  rw [iterate_crcBit_xor, bits, ← BitVec.shiftLeft_add, BitVec.shiftLeft_eq_zero (by omega), BitVec.xor_zero]

/-- The byte-wise CRC is the bit-serial division of the message (R121, R123). -/
theorem crc_eq_serialCrc {w : Nat} (hw : 8 ≤ w) (poly init : BitVec w) (m : List Byte) :
    crc w poly init m = serialCrc poly init (bytesBits m) := by
  rw [serialCrc, bytesBits, List.foldl_flatMap, crc]
  congr 1
  funext rem b
  exact iterate_crcBit_byte hw poly rem b

/-- A byte at the bottom of a register is the mirror image of the reversed byte at its top. -/
theorem setWidth_eq_reverse {w : Nat} (hw : 8 ≤ w) (b : Byte) :
    b.setWidth w = (b.reverse.setWidth w <<< (w - 8)).reverse := by
  refine BitVec.eq_of_getLsbD_eq fun k _ => ?_
  rw [BitVec.getLsbD_reverse]
  by_cases h : k < 8
  · rw [getMsbD_byte_at_top hw _ h, BitVec.getMsbD_reverse, BitVec.getLsbD_setWidth]
    simp; omega
  · rw [BitVec.getLsbD_setWidth, BitVec.getLsbD_of_ge b k (by omega), BitVec.getMsbD_shiftLeft, BitVec.getMsbD_setWidth,
      BitVec.getMsbD_reverse, BitVec.getLsbD_of_ge b _ (by omega), Bool.and_false, Bool.and_false]

/-- The reflected CRC is the mirror image of the CRC of the reversed bytes (R122, R124). -/
theorem crcR_eq_reverse_crc {w : Nat} (hw : 8 ≤ w) (poly init : BitVec w) (m : List Byte) :
    crcR w poly init m = (crc w poly init (m.map BitVec.reverse)).reverse := by
  rw [crcR, crc, List.foldl_map]
  refine List.foldl_hom BitVec.reverse fun rem b => ?_
  rw [setWidth_eq_reverse hw b, reverse_xor_reverse, iterate_crcBitR_reverse]
  rfl

theorem crcR_eq_serialCrc {w : Nat} (hw : 8 ≤ w) (poly init : BitVec w) (m : List Byte) :
    crcR w poly init m = (serialCrc poly init (bytesBits (m.map BitVec.reverse))).reverse := by
  rw [crcR_eq_reverse_crc hw, crc_eq_serialCrc hw]

/-- Settles O19: the CRC of either width is the bit-serial division, the reflected one its mirror image. -/
theorem crcCommandsDivideTheMessage : Obligations.CrcCommandsDivideTheMessage := by
  intro s legal m r
  rw [exec_crc8 legal, exec_crc8r legal, exec_crc16 legal, exec_crc16r legal,
    crc_eq_serialCrc (w := 8) (by decide), crcR_eq_serialCrc (w := 8) (by decide),
    crc_eq_serialCrc (w := 16) (by decide), crcR_eq_serialCrc (w := 16) (by decide)]
  exact ⟨rfl, rfl, rfl, rfl⟩

/-! ## LFSR digests (R129 to R132) -/

section Digests

variable {w : Nat} (step : BitVec w → BitVec w) (key : BitVec w)

/-- Stepping the key first is one step more. -/
theorem keyAfter_step (k : Nat) : keyAfter step (step key) k = keyAfter step key (k + 1) := by
  rw [keyAfter_eq_iterate, keyAfter_eq_iterate, iterate]

/-- The first message bit takes the key itself, the others the keys from the next step on. -/
theorem keySum_cons (v : Bool) (bits : List Bool) :
    keySum step key (v :: bits) = (if v then key else 0) ^^^ keySum step (step key) bits := by
  have rest : keyAfter step (step key) = keyAfter step key ∘ Nat.succ := funext (keyAfter_step step key)
  rw [keySum, keySum, rest, List.length_cons, List.range_succ_eq_map, List.filter_cons, List.filter_map, Function.comp_def]
  cases v <;> simp [keyAfter]

/-- The digest loop from any sum: it adds the keys of the 1 bits and steps the key once per bit. -/
theorem foldl_digest (bits : List Bool) (sum : BitVec w) :
    bits.foldl (fun (sk : BitVec w × BitVec w) v => (if v then sk.1 ^^^ sk.2 else sk.1, step sk.2)) (sum, key) =
      (sum ^^^ keySum step key bits, keyAfter step key bits.length) := by
  induction bits generalizing sum key with
  | nil => simp [keySum, keyAfter]
  | cons v bits ih =>
    rw [List.foldl_cons, ih, keySum_cons, keyAfter_step, List.length_cons]
    cases v <;> simp [BitVec.xor_assoc]

theorem digestBits_eq (bits : List Bool) :
    digestBits step bits key = (keySum step key bits, keyAfter step key bits.length) := by
  rw [digestBits, foldl_digest, BitVec.ofNat_eq_ofNat, BitVec.zero_xor]

end Digests

/-- Settles O21: digest and final key as sum and power of the step; the steps are those of the rules. -/
theorem lfsrDigestIsSumOfKeys : Obligations.LfsrDigestIsSumOfKeys := by
  intro s legal
  rw [exec_lfsr8 legal, exec_lfsr8r legal, exec_lfsr16 legal, exec_lfsr16r legal, lfsrStepR_eq_keyStepUp,
    lfsrStepR_eq_keyStepUp, digestBits_eq, digestBits_eq, digestBits_eq, digestBits_eq]
  exact ⟨by simp, fun k hk => s.getD_bytesBits_bytesAt _ _ k hk, rfl, rfl, rfl, rfl⟩

/-- Both registers of a digest mirrored. -/
def mirror {w : Nat} (d : BitVec w × BitVec w) : BitVec w × BitVec w := (d.1.reverse, d.2.reverse)

theorem mirror_mirror {w : Nat} (d : BitVec w × BitVec w) : mirror (mirror d) = d :=
  Prod.ext BitVec.reverse_reverse_eq BitVec.reverse_reverse_eq

/-- The reflected digest mirrors the plain one with generator and key mirrored, bit for bit of the message (R130, R132). -/
theorem digestBits_reverse {w : Nat} (gen key : BitVec w) (bits : List Bool) :
    digestBits (lfsrStepR gen) bits key = mirror (digestBits (lfsrStep gen.reverse) bits key.reverse) := by
  have zero : ((0 : BitVec w), key.reverse) = mirror (0, key) :=
    Prod.ext (BitVec.reverse_eq_zero_iff.2 rfl).symm rfl
  rw [← mirror_mirror (digestBits (lfsrStepR gen) bits key), digestBits, digestBits, zero]
  refine congrArg mirror (List.foldl_hom mirror fun sk v => ?_).symm
  refine Prod.ext ?_ (lfsrStep_reverse gen sk.2)
  cases v
  · rfl
  · exact reverse_xor_reverse sk.1 sk.2

@[simp] theorem State.setDigest_res0 {w : Nat} (s : State) (d : BitVec w × BitVec w) :
    (s.setDigest d).res0 = d.1.setWidth 32 := rfl

@[simp] theorem State.setDigest_res1 {w : Nat} (s : State) (d : BitVec w × BitVec w) :
    (s.setDigest d).res1 = d.2.setWidth 32 := rfl

/-- A narrow value put into a register is read back (R106). -/
theorem setWidth_setWidth_word {w : Nat} (hw : w ≤ 32) (x : BitVec w) : (x.setWidth 32).setWidth w = x := by
  rw [BitVec.setWidth_setWidth_of_le _ hw, BitVec.setWidth_eq]

/-- Settles O22: the plain digest runs on the same message, and its mirror image, through the result words, is the
reflected one. -/
theorem reflectedDigestIsMirrorImage : Obligations.ReflectedDigestIsMirrorImage := by
  refine fun s legal => ⟨⟨_, exec_lfsr8 legal, ?_⟩, ⟨_, exec_lfsr16 legal, ?_⟩⟩
  · have byte := setWidth_setWidth_word (by decide : 8 ≤ 32)
    rw [exec_lfsr8r legal, digestBits_reverse]
    simp only [low8, State.accept_res0, State.accept_res1, State.setDigest_res0, State.setDigest_res1, byte]
    rfl
  · have halfword := setWidth_setWidth_word (by decide : 16 ≤ 32)
    rw [exec_lfsr16r legal, digestBits_reverse]
    simp only [low16, State.accept_res0, State.accept_res1, State.setDigest_res0, State.setDigest_res1, halfword]
    rfl

/-! ## The empty slice (R125) -/

/-- Settles O23: over no byte each fold is its start value and `REFLB` stores nothing. -/
theorem emptySliceGivesIdentity : Obligations.EmptySliceGivesIdentity := by
  intro s hn ha key8 key16
  have n : s.arg1.toNat = 0 := congrArg BitVec.toNat hn
  have legal : s.arg0.toNat + s.arg1.toNat ≤ 1024 := by omega
  have empty : s.message = [] := by rw [State.message, n]; rfl
  rw [exec_crc8 legal, exec_crc16 legal, exec_crc8r legal, exec_crc16r legal, exec_xorb legal, exec_addb legal,
    exec_parb legal, exec_lfsr8 legal, exec_lfsr8r legal, exec_lfsr16 legal, exec_lfsr16r legal, exec_reflb legal, empty]
  exact ⟨rfl, rfl, rfl, rfl, rfl, rfl, rfl, rfl, rfl, rfl, rfl, rfl⟩

end Sys2Proof.Machine

/-!
PROOFS of the family 41_bitbuffer_store.md: the row store commands, and the protection of an awaited dispatch.
-/

namespace Sys2Proof.Machine

/-! ## Commands that write a buffer (R155 to R158, R163) -/

section Writes

variable {s : State} {b : Buf}

/-- A command that writes `BB0` is refused while `BB0` is under decode (R163). -/
theorem next_onUnlocked_wait (wait : s.dst = .waitDecode) (k : State) :
    (.next (s.onUnlocked .bb0 k) : Result) = .next { s with status := 3 } :=
  congrArg _ (s.onUnlocked_of_wait k wait)

/-- A command that puts back the buffer it found changes `STATUS` alone. -/
theorem next_setBuf_of_eq {v : BitBuf} (same : v = s.buf b) :
    (.next (s.setBuf b v).accept : Result) = .next { s with status := 0 } := by
  rw [same, s.setBuf_buf]
  rfl

variable (free : b = .bb0 → s.dst ≠ .waitDecode)
include free

theorem exec_bbAddrow : exec (.bbAddrow b) s = .next (s.setBuf b (s.buf b).addRow).accept :=
  congrArg _ (s.onUnlocked_of_free b _ free)

theorem exec_bbAddbit : exec (.bbAddbit b) s = .next (s.setBuf b ((s.buf b).addBit (s.arg0.getLsbD 0))).accept :=
  congrArg _ (s.onUnlocked_of_free b _ free)

theorem exec_bbAddbits_inside (inside : s.arg0.toNat + ceil8 s.arg1.toNat ≤ 1024) :
    exec (.bbAddbits b) s =
      .next (s.setBuf b ((s.buf b).addBits (s.scrBits s.arg0.toNat s.arg1.toNat))).accept := by
  rw [exec, execBbAddbits, s.onUnlocked_of_free b _ free, inScr_of_le inside, if_pos rfl]

theorem exec_bbAddbits_outside (outside : 1024 < s.arg0.toNat + ceil8 s.arg1.toNat) :
    exec (.bbAddbits b) s = .next { s with status := 6 } := by
  rw [exec, execBbAddbits, s.onUnlocked_of_free b _ free, inScr_of_gt outside]
  rfl

end Writes

/-! ### Clearing and opening rows -/

/-- Settles O26: the refusals are those of the frame, and the rest are the cases of `Clear` and `AddRow`. -/
theorem bufferClearAndRowOpening : Obligations.BufferClearAndRowOpening := by
  refine ⟨⟨rfl, rfl, rfl, rfl⟩, fun s wait => ⟨next_onUnlocked_wait wait _, next_onUnlocked_wait wait _⟩,
    fun s free => congrArg _ (s.onUnlocked_of_free .bb0 _ fun _ => free),
    fun s => congrArg _ (s.onUnlocked_of_free .bb1 _ nofun),
    fun s b free => ⟨fun ovf => ?_, fun ovf full => ?_, fun ovf room => ?_⟩⟩
  · exact (exec_bbAddrow free).trans (next_setBuf_of_eq ((s.buf b).addRow_of_ovf ovf))
  · rw [exec_bbAddrow free, (s.buf b).addRow_of_full ovf full]
    rfl
  · rw [exec_bbAddrow free, (s.buf b).addRow_of_room ovf room]
    rfl

/-! ### Appending bits -/

/-- A bit for a full current row is dropped (R154). -/
theorem BitBuf.addBit_of_full {b : BitBuf} {init : List (List Bool)} {row : List Bool} (v : Bool) (ovf : b.ovf = false)
    (rows : b.rows = init ++ [row]) (full : row.length = Config.rowCapBits) : b.addBit v = b := by
  rw [b.addBit_of_rows v init row ovf rows, rowAppend_of_full v row full, ← rows, ← ovf]

/-- Settles O27: the cases of `AddBit` on the state of the buffer and its current row. -/
theorem addbitAppendsToCurrentRow : Obligations.AddbitAppendsToCurrentRow := by
  refine ⟨⟨rfl, rfl⟩, fun s wait => next_onUnlocked_wait wait _, fun s b free => ⟨fun ovf => ?_, fun ovf empty => ?_,
    fun init row ovf rows => ⟨fun full => ?_, fun room => ?_⟩⟩⟩
  · exact (exec_bbAddbit free).trans (next_setBuf_of_eq ((s.buf b).addBit_of_ovf _ ovf))
  · rw [exec_bbAddbit free, (s.buf b).addBit_of_empty _ ovf empty]
    rfl
  · exact (exec_bbAddbit free).trans (next_setBuf_of_eq (BitBuf.addBit_of_full _ ovf rows full))
  · rw [exec_bbAddbit free, (s.buf b).addBit_of_rows _ init row ovf rows, rowAppend_of_room _ row room]
    rfl

theorem State.scrBits_eq_nil_iff (s : State) (a n : Nat) : s.scrBits a n = [] ↔ n = 0 := by simp [State.scrBits]

/-- Settles O28: with the slice inside `SCR`, the cases of a run of `AddBit` over its bits. -/
theorem addbitsAppendsSliceBits : Obligations.AddbitsAppendsSliceBits := by
  refine ⟨⟨rfl, rfl⟩, fun s wait => next_onUnlocked_wait wait _, fun s b free =>
    ⟨fun outside => exec_bbAddbits_outside free outside, fun inside => ?_⟩⟩
  rw [exec_bbAddbits_inside free inside]
  refine ⟨fun nothing => next_setBuf_of_eq ?_, fun ovf given empty => ?_, fun init row ovf _ rows fits => ?_⟩
  · rcases nothing with ovf | zero
    · exact (s.buf b).addBits_of_ovf _ ovf
    · rw [(s.scrBits_eq_nil_iff _ _).2 (congrArg BitVec.toNat zero), BitBuf.addBits_nil]
  · have bits : s.scrBits s.arg0.toNat s.arg1.toNat ≠ [] := fun nil =>
      given (BitVec.eq_of_toNat_eq ((s.scrBits_eq_nil_iff _ _).1 nil))
    rw [(s.buf b).addBits_of_empty _ ovf empty bits]
    rfl
  · rw [BitBuf.addBits_of_rows _ (s.buf b) init row ovf rows fits]
    rfl

/-! ## Queries (R159 to R161) -/

/-- One bit as a result word (R22). -/
theorem setWidth_ofBool_eq_ite (v : Bool) : (BitVec.ofBool v).setWidth 32 = if v then 1#32 else 0#32 := by
  cases v <;> rfl

theorem BitBuf.row_of_getElem? {b : BitBuf} {r : Nat} {row : List Bool} (at_r : b.rows[r]? = some row) :
    b.row r = row := by
  rw [BitBuf.row, List.getD_eq_getElem?_getD, at_r]
  rfl

section Queries

variable {s : State} {b : Buf}

theorem exec_bbInfo : exec (.bbInfo b) s = .next { s with
    res0 := BitVec.ofNat 32 (s.buf b).rows.length, res1 := if (s.buf b).ovf then 1 else 0, status := 0 } := by
  rw [exec, execBbInfo, setWidth_ofBool_eq_ite]
  rfl

theorem exec_bbRowlen (present : s.arg0.toNat < (s.buf b).rows.length) :
    exec (.bbRowlen b) s = .next { s with res0 := BitVec.ofNat 32 ((s.buf b).len s.arg0.toNat), status := 0 } :=
  congrArg _ (s.onRow_of_lt b _ _ present)

theorem exec_bbGetbit (present : s.arg0.toNat < (s.buf b).rows.length) :
    exec (.bbGetbit b) s = .next { s with
      res0 := if (s.buf b).bit s.arg0.toNat s.arg1.toNat then 1 else 0, status := 0 } := by
  rw [exec, execBbGetbit, s.onRow_of_lt b _ _ present, setWidth_ofBool_eq_ite]
  rfl

end Queries

/-- Settles O29: each query by its check of the row, and the row read as the list it is. -/
theorem rowQueriesAnswer : Obligations.RowQueriesAnswer := by
  refine ⟨⟨rfl, rfl, rfl, rfl, rfl, rfl⟩, fun s b => ⟨exec_bbInfo, fun missing => ?_, fun row at_r => ?_⟩⟩
  · exact ⟨congrArg _ (s.onRow_of_ge b _ _ missing), congrArg _ (s.onRow_of_ge b _ _ missing)⟩
  · obtain ⟨present, -⟩ := List.getElem?_eq_some_iff.1 at_r
    have len : (s.buf b).len s.arg0.toNat = row.length := congrArg List.length (BitBuf.row_of_getElem? at_r)
    refine ⟨⟨?_, fun ⟨_, capacity, _⟩ => capacity row (List.mem_of_getElem? at_r)⟩, fun beyond => ?_, fun v at_k => ?_⟩
    · rw [exec_bbRowlen present, len]
    · rw [exec_bbGetbit present, (s.buf b).bit_of_ge _ _ (len.trans_le beyond)]
      rfl
    · have bit : (s.buf b).bit s.arg0.toNat s.arg1.toNat = v := by
        rw [BitBuf.bit, BitBuf.row_of_getElem? at_r, List.getD_eq_getElem?_getD, at_k]
        rfl
      rw [exec_bbGetbit present, bit]

/-! ## Inversion (R162) -/

/-- What `BB_INVERT` leaves: the buffer inverted, the inversion of one under decode recorded, `STATUS` 0. -/
def State.inverted (b : Buf) (s : State) : State :=
  { s.setBuf b (s.buf b).invert with flip := if b = .bb0 ∧ s.dst = .waitDecode then !s.flip else s.flip, status := 0 }

theorem exec_bbInvert (b : Buf) (s : State) : exec (.bbInvert b) s = .next (s.inverted b) := by
  by_cases locked : b = .bb0 ∧ s.dst = .waitDecode
  · simp only [exec, execBbInvert, State.inverted, (s.bufLocked_iff b).2 locked, if_pos locked]
    rfl
  · have free : s.bufLocked b = false := Bool.eq_false_iff.2 (mt (s.bufLocked_iff b).1 locked)
    simp only [exec, execBbInvert, State.inverted, free, if_neg locked, ← s.setBuf_flip b (s.buf b).invert]
    rfl

@[simp] theorem State.inverted_buf (b : Buf) (s : State) : (s.inverted b).buf b = (s.buf b).invert := by cases b <;> rfl

/-- Both inversions cancel: that of the bits, and under decode that of `FLIP`. -/
theorem State.inverted_inverted (b : Buf) (s : State) : (s.inverted b).inverted b = s.accept := by
  cases b with
  | bb0 => by_cases wait : s.dst = .waitDecode <;> simp [State.inverted, State.setBuf, State.accept, wait]
  | bb1 => simp [State.inverted, State.setBuf, State.accept]

/-- Settles O30: the laws of inversion on the buffer, and the inversion of `FLIP` undone by the second command. -/
theorem invertFlipsEveryBit : Obligations.InvertFlipsEveryBit := by
  refine ⟨⟨rfl, rfl⟩, fun s b => ⟨s.inverted b, exec_bbInvert b s, ?_, ?_⟩⟩
  · rw [s.inverted_buf b]
    rfl
  · rw [s.inverted_buf b]
    refine ⟨(s.buf b).invert_ovf, (s.buf b).length_invert_rows, (s.buf b).len_invert, (s.buf b).bit_invert_of_lt,
      fun r k beyond => (s.buf b).invert.bit_of_ge r k (((s.buf b).len_invert r).trans_le beyond), rfl, ?_⟩
    exact (exec_bbInvert b _).trans (congrArg _ (s.inverted_inverted b))

/-! ## An awaited dispatch (R163, R241, R261) -/

section Awaited

variable {s t : State} {i : Instr} (e : Effect s i t) (wait : s.dst = .waitDecode) (other : i ≠ .dspReturn)
include e wait other

/-- The registry, once locked, and the dispatcher stay as they are: what would change them is refused here. -/
theorem Effect.keeps_dispatch (locked : s.rst = .locked) :
    t.dst = s.dst ∧ t.rst = s.rst ∧ t.reg = s.reg ∧ t.cand = s.cand ∧ t.cur = s.cur ∧ t.tried = s.tried ∧
      t.tagV = s.tagV ∧ t.tagSlot = s.tagSlot ∧ t.natt = s.natt := by
  cases e with
  | clear0 free | demod free | regInit free | regTeardown free | dspStart _ free => exact absurd wait free
  | regAdd opened | regLock opened => exact absurd (locked.symm.trans opened) nofun
  | dspAck done => exact absurd (wait.symm.trans done) nofun
  | dspSuccess | dspFailure => exact absurd rfl other
  | append b | invert b | secondStage src dst => simp
  | _ => exact ⟨rfl, rfl, rfl, rfl, rfl, rfl, rfl, rfl, rfl⟩

/-- The buffer under decode stays as it is: `BB_INVERT` alone may write it. -/
theorem Effect.keeps_bb0_under_decode (notInvert : i ≠ .bbInvert .bb0) : t.bb0 = s.bb0 ∧ t.flip = s.flip := by
  have only1 {b : Buf} (free : b = .bb0 → s.dst ≠ .waitDecode) : b = .bb1 := by
    cases b with
    | bb0 => exact absurd wait (free rfl)
    | bb1 => rfl
  cases e with
  | clear0 free | demod free | dspStart _ free => exact absurd wait free
  | flip => exact absurd rfl notInvert
  | dspSuccess | dspFailure => exact absurd rfl other
  | append b _ _ free | invert b free | secondStage _ b _ _ free => cases only1 free; exact ⟨rfl, rfl⟩
  | _ => exact ⟨rfl, rfl⟩

end Awaited

/-- Settles O15: `BB_INVERT` on `BB0` by its equation, every other command by its effects. -/
theorem awaitedDispatchIsProtected : Obligations.AwaitedDispatchIsProtected := by
  intro i s t wait locked h other
  have e := exec_effect i s t h
  obtain ⟨dst, rst, reg, dispatch⟩ := e.keeps_dispatch wait other locked
  obtain ⟨-, -, -, -, -, -, ptLen, -⟩ := e.hostFields
  refine ⟨⟨dst.trans wait, rst.trans locked, reg, ptLen, dispatch⟩, ?_, e.keeps_bb0_under_decode wait other⟩
  rintro rfl
  cases (exec_bbInvert .bb0 s).symm.trans h
  exact ⟨rfl, if_pos ⟨rfl, wait⟩⟩

end Sys2Proof.Machine

/-!
PROOFS of the family 42_bitbuffer_search.md: search, extraction, comparison and voting over the rows of a buffer.
-/

namespace Sys2Proof.Machine

/-! ## The first number that passes a test (R171, R175) -/

/-- The two answers of a search upward from 0: the least number that passes, or none because none does. -/
theorem find?_range_cases (p : Nat → Bool) (n : Nat) :
    (∃ i, (List.range n).find? p = some i ∧ i < n ∧ p i = true ∧ ∀ j, j < i → p j ≠ true) ∨
      ((List.range n).find? p = none ∧ ∀ i, i < n → p i ≠ true) := by
  cases found : (List.range n).find? p with
  | some i =>
    obtain ⟨passes, inRange, before⟩ := List.find?_range_eq_some.1 found
    exact .inl ⟨i, rfl, List.mem_range.1 inRange, passes, fun j hj => by simpa using before j hj⟩
  | none => exact .inr ⟨rfl, fun i hi => by simpa using List.find?_range_eq_none.1 found i hi⟩

/-! ## Bits of two rows compared (R170, R173, R174) -/

section Rows

variable (b : BitBuf)

theorem BitBuf.matchesAt_iff (r o n : Nat) (pat : Nat → Bool) :
    b.matchesAt r o n pat = true ↔ ∀ j, j < n → b.bit r (o + j) = pat j := by
  simp [BitBuf.matchesAt]

theorem BitBuf.agree_iff (i j n : Nat) : b.agree i j n = true ↔ ∀ k, k < n → b.bit i k = b.bit j k := by
  simp [BitBuf.agree]

theorem BitBuf.sameRows_iff (i j n : Nat) :
    b.sameRows i j n = true ↔ n ≤ b.len i ∧ n ≤ b.len j ∧ ∀ k, k < n → b.bit i k = b.bit j k := by
  simp [BitBuf.sameRows, b.agree_iff]

theorem BitBuf.eqFull_iff (bound i j : Nat) : b.eqFull bound i j = true ↔ b.FullCopy bound i j := by
  simp [BitBuf.eqFull, BitBuf.FullCopy, b.agree_iff]

theorem BitBuf.eqPfx_iff (bound i j : Nat) : b.eqPfx bound i j = true ↔ b.PrefixCopy bound i j := by
  simp only [BitBuf.eqPfx, BitBuf.PrefixCopy, Bool.and_eq_true, decide_eq_true_eq, b.agree_iff, Nat.lt_min, and_imp]

/-! ## Search (R171) -/

/-- An empty pattern is found nowhere. -/
theorem BitBuf.search_zero (r start : Nat) (pat : Nat → Bool) : b.search r start 0 pat = b.len r := rfl

/-- The numbers searched are those `i` for which the pattern lies inside the row at `start + i`. -/
theorem BitBuf.search_cases (r start n : Nat) (pat : Nat → Bool) (nonempty : n ≠ 0) :
    (b.MatchAt r start n pat (b.search r start n pat) ∧
        ∀ o, b.MatchAt r start n pat o → b.search r start n pat ≤ o) ∨
      ((∀ o, ¬ b.MatchAt r start n pat o) ∧ b.search r start n pat = b.len r) := by
  rw [BitBuf.search, if_neg nonempty]
  rcases find?_range_cases (fun i => b.matchesAt r (start + i) n pat) (b.len r + 1 - n - start) with
    ⟨i, found, inside, here, before⟩ | ⟨found, nowhere⟩
  · simp only [found]
    refine .inl ⟨⟨Nat.le_add_right start i, by omega, (b.matchesAt_iff ..).1 here⟩, fun o ⟨after, _, match_o⟩ => ?_⟩
    by_contra earlier
    refine before (o - start) (by omega) ((b.matchesAt_iff ..).2 ?_)
    rwa [Nat.add_sub_cancel' after]
  · rw [found]
    refine .inr ⟨fun o ⟨after, inside, match_o⟩ => ?_, rfl⟩
    refine nowhere (o - start) (by omega) ((b.matchesAt_iff ..).2 ?_)
    rwa [Nat.add_sub_cancel' after]

/-! ## Voting (R174 to R176) -/

/-- Counting the copies of row `i` decides whether at least `m` rows stand in the relation to it. -/
theorem BitBuf.le_copies_iff {eq : Nat → Nat → Bool} {R : Nat → Nat → Prop} (decides : ∀ i j, eq i j = true ↔ R i j)
    (m i : Nat) : m ≤ b.copies eq i ↔ HasCopies b.rows.length m i R := by
  have mem_copies (j : Nat) : j ∈ (List.range b.nrows).filter (eq i) ↔ j < b.rows.length ∧ R i j := by
    rw [List.mem_filter, List.mem_range, decides, BitBuf.nrows]
  constructor
  · exact fun enough => ⟨_, List.nodup_range.filter _, enough, fun j hj => (mem_copies j).1 hj⟩
  · rintro ⟨l, distinct, enough, copies⟩
    exact enough.trans (distinct.length_le_of_subset fun j hj => (mem_copies j).2 (copies j hj))

/-- A vote under a relation that `eq` decides returns the result of that relation's vote. -/
theorem BitBuf.voteResult_vote {eq : Nat → Nat → Bool} {R : Nat → Nat → Prop} (decides : ∀ i j, eq i j = true ↔ R i j)
    (m : Nat) : b.VoteResult m R (b.vote eq m) := by
  have passes_iff (i : Nat) : (decide (b.len i ≠ 0) && decide (m ≤ b.copies eq i)) = true ↔
      b.len i ≠ 0 ∧ HasCopies b.rows.length m i R := by
    rw [Bool.and_eq_true, decide_eq_true_iff, decide_eq_true_iff, b.le_copies_iff decides]
  rw [BitBuf.vote]
  rcases find?_range_cases (fun i => decide (b.len i ≠ 0) && decide (m ≤ b.copies eq i)) b.nrows with
    ⟨i, found, present, wins, first⟩ | ⟨found, noWinner⟩ <;> rw [found]
  · exact .inl ⟨i, ⟨present, (passes_iff i).1 wins⟩, fun j earlier ⟨_, wins_j⟩ => first j earlier ((passes_iff j).2 wins_j),
      rfl⟩
  · exact .inr ⟨fun i ⟨present, wins⟩ => noWinner i present ((passes_iff i).2 wins), rfl⟩

/-! ## Extraction (R172) -/

theorem BitBuf.getElem_extract (r off n j : Nat) (h : j < (b.extract r off n).length) :
    (b.extract r off n)[j] = b.extractByte r off n j := by
  simp [BitBuf.extract]

theorem BitBuf.getMsbD_extractByte (r off n j : Nat) {k : Nat} (hk : k < 8) :
    (b.extractByte r off n j).getMsbD k = (decide (8 * j + k < n) && b.bit r (off + (8 * j + k))) :=
  getMsbD_packByte _ k hk

/-- A byte of an extraction, read back from `SCR`. -/
theorem State.byteAt_writeScr_extract (s : State) (a r off : Nat) {n j : Nat} (hj : j < ceil8 n) :
    (s.writeScr a (b.extract r off n)).byteAt (0x400 + a + j) = b.extractByte r off n j :=
  (s.byteAt_writeBytesAt_of_inside _ j _ (hj.trans_eq (b.length_extract r off n).symm)).trans (b.getElem_extract ..)

/-- The `n` bits of row `r` from offset `off` on, with zeros beyond its end (R177). -/
def BitBuf.window (r off n : Nat) : List Bool := (List.range n).map fun k => b.bit r (off + k)

@[simp] theorem BitBuf.length_window (r off n : Nat) : (b.window r off n).length = n := by simp [BitBuf.window]

theorem BitBuf.getD_window (r off : Nat) {n k : Nat} (hk : k < n) :
    (b.window r off n).getD k false = b.bit r (off + k) := by
  simp [BitBuf.window, hk]

/-- An extraction of `n` bits, read back from `SCR` as bits, is the window it was taken from. -/
theorem State.scrBits_writeScr_extract (s : State) (a r off n : Nat) :
    (s.writeScr a (b.extract r off n)).scrBits a n = b.window r off n := by
  refine List.map_congr_left fun k hk => ?_
  rw [List.mem_range] at hk
  have byteInside : k / 8 < ceil8 n := by
    rw [ceil8]
    omega
  rw [State.scrBit, ← Nat.add_assoc, s.byteAt_writeScr_extract b a r off byteInside,
    b.getMsbD_extractByte _ _ _ _ (Nat.mod_lt k (by decide)), Nat.div_add_mod, decide_eq_true hk, Bool.true_and]

end Rows

theorem State.scrBits_congr {s t : State} (mem : t.mem = s.mem) (epoch : t.epoch = s.epoch) (a n : Nat) :
    t.scrBits a n = s.scrBits a n := by
  simp only [State.scrBits, State.scrBit, s.byteAt_congr t mem epoch]

/-! ## The commands -/

section Commands

variable {s : State} {b : Buf}

/-- A command whose row does not exist is refused (R150). -/
theorem next_onRow_missing {r : Word} (missing : (s.buf b).rows.length ≤ r.toNat) (k : State) :
    (.next (s.onRow b r k) : Result) = .next { s with status := 5 } :=
  congrArg _ (s.onRow_of_ge b r k missing)

/-- With the row there, a command whose slice leaves `SCR` is refused (R282, checks 5 and 6). -/
theorem next_onRow_outside {r : Word} (present : r.toNat < (s.buf b).rows.length) {a n : Nat} (outside : 1024 < a + n)
    (k : State) : (.next (s.onRow b r (if inScr a n then k else s.refuse .range)) : Result) =
      .next { s with status := 6 } := by
  rw [s.onRow_of_lt b r _ present, inScr_of_gt outside]
  rfl

/-- With the row there and its slice inside `SCR`, a command is executed. -/
theorem next_onRow_inside {r : Word} (present : r.toNat < (s.buf b).rows.length) {a n : Nat} (inside : a + n ≤ 1024)
    (k : State) : (.next (s.onRow b r (if inScr a n then k else s.refuse .range)) : Result) = .next k := by
  rw [s.onRow_of_lt b r _ present, inScr_of_le inside, if_pos rfl]

theorem exec_bbSearch (present : s.arg0.toNat < (s.buf b).rows.length)
    (inside : s.arg2.toNat + ceil8 s.arg3.toNat ≤ 1024) :
    exec (.bbSearch b) s = .next { s with
      res0 := BitVec.ofNat 32 ((s.buf b).search s.arg0.toNat s.arg1.toNat s.arg3.toNat (s.scrBit s.arg2.toNat))
      res1 := BitVec.ofNat 32 ((s.buf b).len s.arg0.toNat), status := 0 } :=
  next_onRow_inside present inside _

/-- What `BB_EXTRACT` leaves of an existing row when its destination is inside `SCR` (R172). -/
def State.extracted (b : Buf) (s : State) : State :=
  (s.writeScr s.arg2.toNat ((s.buf b).extract s.arg0.toNat s.arg1.toNat s.arg3.toNat)).accept

theorem exec_bbExtract (present : s.arg0.toNat < (s.buf b).rows.length)
    (inside : s.arg2.toNat + ceil8 s.arg3.toNat ≤ 1024) : exec (.bbExtract b) s = .next (s.extracted b) :=
  next_onRow_inside present inside _

theorem exec_bbCmprows (present0 : s.arg0.toNat < (s.buf b).rows.length)
    (present1 : s.arg1.toNat < (s.buf b).rows.length) :
    exec (.bbCmprows b) s = .next { s with
      res0 := if (s.buf b).sameRows s.arg0.toNat s.arg1.toNat s.arg2.toNat then 1 else 0, status := 0 } := by
  rw [exec, execBbCmprows, s.onRow_of_lt b _ _ present0, s.onRow_of_lt b _ _ present1, setWidth_ofBool_eq_ite]
  rfl

theorem exec_bbFindrep : exec (.bbFindrep b) s = .next { s with
    res0 := (s.buf b).vote ((s.buf b).eqFull s.arg1.toNat) s.arg0.toNat, status := 0 } := rfl

theorem exec_bbFindpfx : exec (.bbFindpfx b) s = .next { s with
    res0 := (s.buf b).vote ((s.buf b).eqPfx s.arg1.toNat) s.arg0.toNat, status := 0 } := rfl

@[simp] theorem State.buf_accept (s : State) (b : Buf) : s.accept.buf b = s.buf b := by cases b <;> rfl

/-- `BB_CLEAR` of a buffer that is not under decode empties it and leaves the memory and the dispatcher (R155). -/
theorem exec_bbClear (free : b = .bb0 → s.dst ≠ .waitDecode) :
    ∃ u, exec (.bbClear b) s = .next u ∧ u.buf b = BitBuf.empty ∧ u.mem = s.mem ∧ u.epoch = s.epoch ∧ u.dst = s.dst := by
  obtain ⟨-, -, clear0, clear1, -⟩ := bufferClearAndRowOpening
  cases b with
  | bb0 => exact ⟨_, clear0 s (free rfl), rfl, rfl, rfl, rfl⟩
  | bb1 => exact ⟨_, clear1 s, rfl, rfl, rfl, rfl⟩

/-- Bits appended to an empty buffer are its row 0, up to the row's capacity (R158). -/
theorem exec_bbAddbits_empty (empty : s.buf b = BitBuf.empty) (free : b = .bb0 → s.dst ≠ .waitDecode)
    (given : s.arg1 ≠ 0) (fits : s.arg1.toNat ≤ 4096) (inside : s.arg0.toNat + ceil8 s.arg1.toNat ≤ 1024) :
    ∃ v, exec (.bbAddbits b) s = .next v ∧ (v.buf b).row 0 = s.scrBits s.arg0.toNat s.arg1.toNat := by
  have bits : s.scrBits s.arg0.toNat s.arg1.toNat ≠ [] := fun nil =>
    given (BitVec.eq_of_toNat_eq ((s.scrBits_eq_nil_iff _ _).1 nil))
  have length : (s.scrBits s.arg0.toNat s.arg1.toNat).length = s.arg1.toNat := by simp [State.scrBits]
  refine ⟨_, exec_bbAddbits_inside free inside, ?_⟩
  rw [State.buf_accept, State.buf_setBuf_same, empty, BitBuf.addBits_of_empty _ _ rfl rfl bits,
    List.take_of_length_le (length.trans_le fits)]
  rfl

end Commands

/-! ## The statements -/

/-- Settles O31: the checks in their order, then the two answers of the search. -/
theorem searchFindsLeastOffset : Obligations.SearchFindsLeastOffset := by
  refine ⟨⟨rfl, rfl⟩, fun s b => ⟨fun missing => next_onRow_missing missing _,
    fun present outside => next_onRow_outside present outside _,
    fun present inside => ⟨_, exec_bbSearch present inside, ?_⟩⟩⟩
  by_cases empty : s.arg3.toNat = 0
  · rw [empty]
    exact .inr ⟨.inl rfl, (s.buf b).search_zero ..⟩
  · rcases (s.buf b).search_cases s.arg0.toNat s.arg1.toNat s.arg3.toNat (s.scrBit s.arg2.toNat) empty with
      ⟨found, least⟩ | ⟨nowhere, length⟩
    · exact .inl ⟨empty, found, least⟩
    · exact .inr ⟨.inr nowhere, length⟩

/-- Settles O32: the checks in their order, then the bytes beside and inside the store. -/
theorem extractStoresRowBits : Obligations.ExtractStoresRowBits := by
  refine ⟨⟨rfl, rfl⟩, fun s b => ⟨fun missing => next_onRow_missing missing _,
    fun present outside => next_onRow_outside present outside _,
    fun present inside => ⟨s.extracted b, exec_bbExtract present inside, rfl, fun a beside => ?_, fun j k hj hk => ?_⟩⟩⟩
  · refine s.byteAt_writeBytesAt_of_outside _ a _ ?_
    rw [BitBuf.length_extract, ceil8, Config.scrBase]
    omega
  · exact (congrArg (·.getMsbD k) (s.byteAt_writeScr_extract _ _ _ _ hj)).trans ((s.buf b).getMsbD_extractByte _ _ _ j hk)

/-- Settles O33: either row missing is refused; the result compares the rows' first bits. -/
theorem compareRowsIsPrefixEquality : Obligations.CompareRowsIsPrefixEquality := by
  refine ⟨⟨rfl, rfl⟩, fun s b => ⟨fun missing => ?_, fun present0 present1 => ⟨fun equal => ?_, fun unequal => ?_⟩⟩⟩
  · rcases Nat.lt_or_ge s.arg0.toNat (s.buf b).rows.length with present0 | missing0
    · have missing1 := missing.resolve_left (Nat.not_le.2 present0)
      exact (congrArg _ (s.onRow_of_lt b _ _ present0)).trans (next_onRow_missing missing1 _)
    · exact next_onRow_missing missing0 _
  · rw [exec_bbCmprows present0 present1, if_pos (((s.buf b).sameRows_iff ..).2 equal)]
  · rw [exec_bbCmprows present0 present1, if_neg (mt ((s.buf b).sameRows_iff ..).1 unequal)]

/-- Settles O34: both commands are the same vote, each under the relation its test decides. -/
theorem votingReturnsFirstRepeatedRow : Obligations.VotingReturnsFirstRepeatedRow :=
  ⟨⟨rfl, rfl, rfl, rfl⟩, fun s b =>
    ⟨⟨_, exec_bbFindrep, (s.buf b).voteResult_vote ((s.buf b).eqFull_iff s.arg1.toNat) s.arg0.toNat⟩,
      ⟨_, exec_bbFindpfx, (s.buf b).voteResult_vote ((s.buf b).eqPfx_iff s.arg1.toNat) s.arg0.toNat⟩⟩⟩

/-- Settles O35: `SCR` keeps the extracted bits while the other buffer is cleared, and they become its row 0. -/
theorem extractionRoundTrip : Obligations.ExtractionRoundTrip := by
  intro s src dst _ free present dest0 given fits
  have slice : 0 + ceil8 s.arg3.toNat ≤ 1024 := by
    rw [ceil8]
    omega
  obtain ⟨u, clear, empty, mem, epoch, dispatch⟩ := exec_bbClear (s := s.extracted src) free
  obtain ⟨v, append, row0⟩ := exec_bbAddbits_empty (s := { u with arg0 := 0, arg1 := s.arg3 }) empty
    (fun isBb0 => dispatch.trans_ne (free isBb0)) given fits slice
  have taken : (v.buf dst).row 0 = (s.buf src).window s.arg0.toNat s.arg1.toNat s.arg3.toNat :=
    calc (v.buf dst).row 0
      _ = u.scrBits 0 s.arg3.toNat := row0
      _ = (s.extracted src).scrBits s.arg2.toNat s.arg3.toNat := by rw [State.scrBits_congr mem epoch, dest0]; rfl
      _ = (s.buf src).window s.arg0.toNat s.arg1.toNat s.arg3.toNat := s.scrBits_writeScr_extract (s.buf src) ..
  refine ⟨s.extracted src, u, v, exec_bbExtract present ?_, clear, append, ?_, fun k hk => ?_⟩
  · rwa [dest0]
  · rw [BitBuf.len, taken, BitBuf.length_window]
  · rw [BitBuf.bit, taken, BitBuf.getD_window _ _ _ hk]

end Sys2Proof.Machine

/-!
PROOFS of the family 43_manchester.md: the second-stage decode commands and the encoders they invert.
-/

namespace Sys2Proof.Machine

/-! ## The loop both commands share (R191, R192)

A decode walks over cells of two bits while a test of the cell's position holds, and appends a value of each cell. The rules
differ in the test and the value. -/

/-- `out` holds the values of the cells from `start` that pass, and the walk ends there: at the limit, without a whole cell
left, or at a cell that fails. -/
structure CellsStop (good : Nat → Prop) (value : Nat → Bool) (len start limit : Nat) (out : List Bool) : Prop where
  le_limit : out.length ≤ limit
  cell : ∀ i, i < out.length →
    start + 2 * i + 1 < len ∧ good (start + 2 * i) ∧ out.getD i false = value (start + 2 * i)
  stop : out.length = limit ∨ len ≤ start + 2 * out.length + 1 ∨ ¬ good (start + 2 * out.length)

section Cells

variable {good : Nat → Prop} {value : Nat → Bool} {len start limit : Nat} {out : List Bool}

theorem CellsStop.nil (stop : 0 = limit ∨ len ≤ start + 1 ∨ ¬ good start) :
    CellsStop good value len start limit [] :=
  ⟨Nat.zero_le _, nofun, stop⟩

theorem CellsStop.cons (whole : start + 1 < len) (pass : good start)
    (rest : CellsStop good value len (start + 2) limit out) :
    CellsStop good value len start (limit + 1) (value start :: out) := by
  have shift (i : Nat) : start + 2 * (i + 1) = start + 2 + 2 * i := by omega
  refine ⟨Nat.succ_le_succ rest.le_limit, fun i hi => ?_, ?_⟩
  · cases i with
    | zero => exact ⟨whole, pass, rfl⟩
    | succ i =>
      rw [shift]
      exact rest.cell i (Nat.lt_of_succ_lt_succ hi)
  · rw [List.length_cons, shift]
    exact rest.stop.imp_left (congrArg (· + 1))

end Cells

/-- With a whole cell left at `pos`, the row from there on is the cell and the row behind it. -/
theorem drop_eq_cell_append {row : List Bool} {pos : Nat} (whole : pos + 1 < row.length) :
    row.drop pos = row.getD pos false :: row.getD (pos + 1) false :: row.drop (pos + 2) := by
  rw [List.drop_eq_getElem_cons (Nat.lt_of_succ_lt whole), List.drop_eq_getElem_cons whole,
    List.getD_eq_getElem _ _ (Nat.lt_of_succ_lt whole), List.getD_eq_getElem _ _ whole]

/-! ## Manchester (R191) -/

@[simp] theorem manchBits_zero (l : List Bool) : manchBits l 0 = [] := by
  rw [manchBits]
  exact nofun

theorem manchBits_of_short {l : List Bool} (short : l.length ≤ 1) (n : Nat) : manchBits l n = [] := by
  match l, short with
  | [], _ | [_], _ => rfl

theorem manchBits_cell (h1 h2 : Bool) (rest : List Bool) (n : Nat) :
    manchBits (h1 :: h2 :: rest) (n + 1) = if h1 = h2 then [] else h2 :: manchBits rest n := by
  simp only [manchBits, beq_iff_eq]

theorem cellsStop_manchBits (row : List Bool) (n : Nat) : ∀ pos,
    CellsStop (fun k => row.getD k false ≠ row.getD (k + 1) false) (fun k => row.getD (k + 1) false) row.length pos n
      (manchBits (row.drop pos) n) := by
  induction n with
  | zero =>
    intro pos
    rw [manchBits_zero]
    exact .nil (.inl rfl)
  | succ n ih =>
    intro pos
    rcases Nat.lt_or_ge (pos + 1) row.length with whole | short
    · rw [drop_eq_cell_append whole, manchBits_cell]
      split
      next equal => exact .nil (.inr (.inr (not_not_intro equal)))
      next unequal => exact .cons whole unequal (ih (pos + 2))
    · rw [manchBits_of_short (by rw [List.length_drop]; omega)]
      exact .nil (.inr (.inl short))

theorem manchStops_manchBits (row : List Bool) (start limit : Nat) :
    manchStops (fun k => row.getD k false) row.length start limit (manchBits (row.drop start) limit).length
      (manchBits (row.drop start) limit) :=
  have walk := cellsStop_manchBits row limit start
  ⟨rfl, walk.le_limit, walk.cell, walk.stop.imp_right (Or.imp_right not_not.1)⟩

/-! ## Differential Manchester (R192) -/

@[simp] theorem dmanchBits_zero (prev : Option Bool) (l : List Bool) : dmanchBits prev l 0 = [] := by
  rw [dmanchBits]
  exact nofun

theorem dmanchBits_of_short (prev : Option Bool) {l : List Bool} (short : l.length ≤ 1) (n : Nat) :
    dmanchBits prev l n = [] := by
  match l, short with
  | [], _ | [_], _ => rfl

theorem dmanchBits_cell (prev : Option Bool) (h1 h2 : Bool) (rest : List Bool) (n : Nat) :
    dmanchBits prev (h1 :: h2 :: rest) (n + 1) =
      if prev = some h1 then [] else (h1 == h2) :: dmanchBits (some h2) rest n := rfl

/-- The `prev` of the rule's loop at `pos`, in a decode that began at `start`. -/
def levelBefore (row : List Bool) (start pos : Nat) : Option Bool :=
  if start < pos then some (row.getD (pos - 1) false) else none

theorem levelBefore_start (row : List Bool) (start : Nat) : levelBefore row start start = none :=
  if_neg (Nat.lt_irrefl start)

theorem levelBefore_next (row : List Bool) {start pos : Nat} (reached : start ≤ pos) :
    levelBefore row start (pos + 2) = some (row.getD (pos + 1) false) :=
  if_pos (by omega)

theorem levelBefore_eq_some_iff (row : List Bool) (start pos : Nat) (level : Bool) :
    levelBefore row start pos = some level ↔ ¬ (start < pos → row.getD (pos - 1) false ≠ level) := by
  by_cases later : start < pos <;> simp [levelBefore, later]

theorem cellsStop_dmanchBits (row : List Bool) (start n : Nat) : ∀ pos, start ≤ pos →
    CellsStop (fun k => start < k → row.getD (k - 1) false ≠ row.getD k false)
      (fun k => row.getD k false == row.getD (k + 1) false) row.length pos n
      (dmanchBits (levelBefore row start pos) (row.drop pos) n) := by
  induction n with
  | zero =>
    intro pos _
    rw [dmanchBits_zero]
    exact .nil (.inl rfl)
  | succ n ih =>
    intro pos reached
    rcases Nat.lt_or_ge (pos + 1) row.length with whole | short
    · rw [drop_eq_cell_append whole, dmanchBits_cell, ← levelBefore_next row reached]
      split
      next violation => exact .nil (.inr (.inr ((levelBefore_eq_some_iff ..).1 violation)))
      next clock =>
        exact .cons whole (not_not.1 (mt (levelBefore_eq_some_iff ..).2 clock)) (ih (pos + 2) (by omega))
    · rw [dmanchBits_of_short _ (by rw [List.length_drop]; omega)]
      exact .nil (.inr (.inl short))

theorem dmanchStops_dmanchBits (row : List Bool) (start limit : Nat) :
    dmanchStops (fun k => row.getD k false) row.length start limit (dmanchBits none (row.drop start) limit).length
      (dmanchBits none (row.drop start) limit) := by
  have walk := cellsStop_dmanchBits row start limit start (Nat.le_refl start)
  rw [levelBefore_start] at walk
  refine ⟨rfl, walk.le_limit, fun i hi => ?_, walk.stop.imp_right (Or.imp_right fun violation => ?_)⟩
  · obtain ⟨whole, clock, value⟩ := walk.cell i hi
    exact ⟨whole, fun later => clock (by omega), value⟩
  · obtain ⟨later, same⟩ := Classical.not_imp.1 violation
    exact ⟨by omega, not_not.1 same⟩

/-- Both tests of the rule compare two input bits, so inverting every one of them changes nothing. -/
theorem dmanchBits_map_not (n : Nat) : ∀ (prev : Option Bool) (l : List Bool),
    dmanchBits (prev.map fun v => !v) (l.map fun v => !v) n = dmanchBits prev l n := by
  induction n with
  | zero => simp
  | succ n ih =>
    intro prev l
    match l with
    | [] | [_] => rw [dmanchBits_of_short _ (by simp), dmanchBits_of_short _ (by simp)]
    | h1 :: h2 :: rest =>
      have clock : (prev.map fun v => !v) = some (!h1) ↔ prev = some h1 := by cases prev <;> simp
      have value : ((!h1) == !h2) = (h1 == h2) := by cases h1 <;> cases h2 <;> rfl
      simp only [List.map_cons, dmanchBits_cell, clock, value, ← ih (some h2) rest, Option.map_some]

/-! ## Encoding and decoding (R193) -/

theorem manchBits_menc (bits : List Bool) : manchBits (menc bits) bits.length = bits := by
  induction bits with
  | nil => rfl
  | cons v vs ih => rw [menc, List.length_cons, manchBits_cell, if_neg (Bool.not_ne_self v), ih]

/-- A cell begins with a transition from the level `lv` before it, so the decoder that knows `lv` goes on as the one that knows
none. -/
theorem dmanchBits_dmenc (bits : List Bool) : ∀ (lv : Bool) (prev : Option Bool), prev = none ∨ prev = some lv →
    dmanchBits prev (dmenc lv bits) bits.length = bits := by
  induction bits with
  | nil => exact fun _ _ _ => dmanchBits_zero ..
  | cons v vs ih =>
    intro lv prev known
    have clock : prev ≠ some (!lv) := by rcases known with rfl | rfl <;> simp
    have value : ((!lv) == if v then !lv else !!lv) = v := by cases v <;> cases lv <;> rfl
    rw [dmenc, List.length_cons, dmanchBits_cell, if_neg clock, value, ih _ _ (.inr rfl)]

/-- At most a row's capacity of bits, appended to a cleared buffer, become its row 0, and none leave it without rows. -/
theorem BitBuf.addBits_empty_of_le (bits : List Bool) (fits : bits.length ≤ Config.rowCapBits) :
    BitBuf.empty.addBits bits = { rows := if bits = [] then [] else [bits], ovf := false } := by
  by_cases empty : bits = []
  · rw [if_pos empty, empty, BitBuf.addBits_nil]
    rfl
  · rw [if_neg empty, BitBuf.addBits_of_empty _ _ rfl rfl empty, List.take_of_length_le fits]

/-! ## The commands (R190) -/

/-- The bits a second-stage decode reads: the source row from the first position on. -/
def State.stageInput (src : Buf) (s : State) : List Bool := ((s.buf src).row s.arg0.toNat).drop s.arg1.toNat

/-- What a second-stage decode from position `start` leaves when its output is `out` and the destination was `old`. -/
def State.staged (dst : Buf) (old : BitBuf) (start : Nat) (out : List Bool) (s : State) : State :=
  { s.setBuf dst (out.foldl BitBuf.addBit old) with
    res0 := BitVec.ofNat 32 (start + 2 * out.length), res1 := BitVec.ofNat 32 out.length, status := 0 }

theorem State.stageInput_setBuf_invert (s : State) (src : Buf) :
    (s.setBuf src (s.buf src).invert).stageInput src = (s.stageInput src).map fun v => !v := by
  simp only [State.stageInput, State.buf_setBuf_same, State.setBuf_arg0, State.setBuf_arg1, BitBuf.row_invert,
    List.map_drop]

section Stage

variable {s : State} {src dst : Buf} {f : List Bool → Nat → List Bool}

theorem State.secondStage_wait (bb0 : dst = .bb0) (wait : s.dst = .waitDecode) :
    s.secondStage src dst f = { s with status := 3 } := by
  rw [State.secondStage, if_pos ((s.bufLocked_iff dst).2 ⟨bb0, wait⟩)]
  rfl

variable (free : dst = .bb0 → s.dst ≠ .waitDecode)
include free

theorem State.secondStage_same (same : src = dst) : s.secondStage src dst f = { s with status := 4 } := by
  rw [State.secondStage, s.bufLocked_of_free dst free, if_neg Bool.false_ne_true, if_pos same]
  rfl

theorem State.secondStage_missing (other : src ≠ dst) (missing : (s.buf src).rows.length ≤ s.arg0.toNat) :
    s.secondStage src dst f = { s with status := 5 } := by
  rw [State.secondStage, s.bufLocked_of_free dst free, if_neg Bool.false_ne_true, if_neg other,
    s.onRow_of_ge src _ _ missing]
  rfl

theorem State.secondStage_present (other : src ≠ dst) (present : s.arg0.toNat < (s.buf src).rows.length) :
    s.secondStage src dst f = s.staged dst (s.buf dst) s.arg1.toNat (f (s.stageInput src) s.arg2.toNat) := by
  rw [State.secondStage, s.bufLocked_of_free dst free, if_neg Bool.false_ne_true, if_neg other,
    s.onRow_of_lt src _ _ present]
  rfl

/-- Inverting the source buffer first changes no output bit and no stop position (R192). -/
theorem exec_bbDmanch_invert (other : src ≠ dst) (present : s.arg0.toNat < (s.buf src).rows.length) :
    exec (.bbDmanch src dst) (s.setBuf src (s.buf src).invert) =
      .next ((s.setBuf src (s.buf src).invert).staged dst (s.buf dst) s.arg1.toNat
        (dmanchBits none (s.stageInput src) s.arg2.toNat)) := by
  have bits : dmanchBits none ((s.setBuf src (s.buf src).invert).stageInput src) s.arg2.toNat =
      dmanchBits none (s.stageInput src) s.arg2.toNat := by
    rw [s.stageInput_setBuf_invert src]
    exact dmanchBits_map_not _ none _
  rw [exec, execBbDmanch, State.secondStage_present (by rwa [State.setBuf_dst]) other (by simpa using present),
    State.setBuf_arg2, bits, State.setBuf_arg1, s.buf_setBuf_other src dst _ other.symm]

/-- A decode from position 0 into a cleared buffer that gives the message back leaves it as row 0, with all bits consumed. -/
theorem State.secondStage_message {row bits : List Bool} (other : src ≠ dst)
    (cleared : s.buf dst = BitBuf.empty) (fits : bits.length ≤ 2048) (start : s.arg1 = 0)
    (at_row : (s.buf src).rows[s.arg0.toNat]? = some row) (decodes : f row s.arg2.toNat = bits) :
    s.secondStage src dst f =
      { s.setBuf dst { rows := if bits = [] then [] else [bits], ovf := false } with
        res0 := BitVec.ofNat 32 (2 * bits.length), res1 := BitVec.ofNat 32 bits.length, status := 0 } := by
  obtain ⟨present, -⟩ := List.getElem?_eq_some_iff.1 at_row
  have input : s.stageInput src = row := by
    rw [State.stageInput, BitBuf.row_of_getElem? at_row, start]
    rfl
  have output : bits.foldl BitBuf.addBit (s.buf dst) = { rows := if bits = [] then [] else [bits], ovf := false } := by
    rw [cleared]
    exact BitBuf.addBits_empty_of_le bits (fits.trans (by decide))
  have position : s.arg1.toNat + 2 * bits.length = 2 * bits.length := by
    rw [start]
    exact Nat.zero_add _
  rw [State.secondStage_present free other present, input, decodes, State.staged, output, position]

end Stage

/-! ## The statements -/

/-- Settles O36: the checks in their order, then the walk over the pairs of the row. -/
theorem manchesterDecodesPairs : Obligations.ManchesterDecodesPairs :=
  ⟨⟨rfl, rfl⟩, fun s src _ =>
    ⟨fun bb0 wait => congrArg _ (State.secondStage_wait bb0 wait), fun free =>
      ⟨fun same => congrArg _ (State.secondStage_same free same),
        fun other missing => congrArg _ (State.secondStage_missing free other missing),
        fun other present => ⟨_, manchBits (s.stageInput src) s.arg2.toNat, manchStops_manchBits _ _ _,
          congrArg _ (State.secondStage_present free other present)⟩⟩⟩⟩

/-- Settles O37: the checks in their order, then the walk over the cells of the row, the same for the inverted buffer. -/
theorem differentialManchesterDecodesCells : Obligations.DifferentialManchesterDecodesCells := by
  refine ⟨⟨rfl, rfl⟩, fun s src _ =>
    ⟨fun bb0 wait => congrArg _ (State.secondStage_wait bb0 wait), fun free =>
      ⟨fun same => congrArg _ (State.secondStage_same free same),
        fun other missing => congrArg _ (State.secondStage_missing free other missing),
        fun other present => ⟨_, dmanchBits none (s.stageInput src) s.arg2.toNat, dmanchStops_dmanchBits _ _ _, ?_⟩⟩⟩⟩
  rintro t (rfl | rfl)
  · exact congrArg _ (State.secondStage_present free other present)
  · exact exec_bbDmanch_invert free other present

/-- Settles O38: either decoder gives back what its encoder was given, so both commands leave the message. -/
theorem lineCodeRoundTrip : Obligations.LineCodeRoundTrip := by
  intro s src dst bits other free cleared fits start limit
  refine ⟨fun at_row => ?_, fun lv at_row => ?_⟩
  · have decodes : manchBits (menc bits) s.arg2.toNat = bits := by rw [limit, manchBits_menc]
    exact congrArg _ (State.secondStage_message free other cleared fits start at_row decodes)
  · have decodes : dmanchBits none (dmenc lv bits) s.arg2.toNat = bits := by
      rw [limit, dmanchBits_dmenc bits lv none (.inl rfl)]
    exact congrArg _ (State.secondStage_message free other cleared fits start at_row decodes)

end Sys2Proof.Machine

/-!
PROOFS of the family 44_demodulator.md, the first part: what every train leaves in the buffer, in each coding.
-/

namespace Sys2Proof.Machine

/-! ## The outputs a demodulation has yet to make

The reference forms of Safety.lean give a train as a list of outputs. A step of the demodulator makes some outputs and leaves
the rest owed; nothing is owed at the end. -/

/-- Once `d` has made the outputs `outs`, the rows asked for are `rows`. -/
def Demod.Owes (outs : List (Option Bool)) (rows : List (List Bool)) (d : Demod) : Prop :=
  ∃ done row, d.Holds done row ∧ done ++ rowsFrom row outs = rows

section Owes

variable {d e : Demod} {outs : List (Option Bool)} {rows : List (List Bool)}

theorem Demod.owes_start (outs : List (Option Bool)) : Demod.start.Owes outs (rowsFrom [] outs) :=
  ⟨[], [], Demod.holds_start, rfl⟩

theorem Demod.Owes.buf_eq (h : d.Owes [] rows) : d.buf = stored rows := by
  obtain ⟨done, row, holds, rfl⟩ := h
  exact holds.2

theorem Demod.Owes.congr (h : d.Owes outs rows) (fresh : e.fresh = d.fresh) (buf : e.buf = d.buf) : e.Owes outs rows := by
  obtain ⟨done, row, holds, total⟩ := h
  exact ⟨done, row, holds.congr fresh buf, total⟩

/-- `Emit(v)` makes one bit (R206). -/
theorem Demod.Owes.emit {v : Bool} (h : d.Owes (some v :: outs) rows) : (d.emit v).Owes outs rows := by
  obtain ⟨done, row, holds, total⟩ := h
  exact ⟨done, row ++ [v], holds.emit v, total⟩

/-- Whatever sets the fresh flag and keeps the buffer ends a row: `TerminateRow()`, `AbortRow()` (R206). -/
theorem Demod.Owes.endRow (h : d.Owes (none :: outs) rows) (fresh : e.fresh = true) (buf : e.buf = d.buf) :
    e.Owes outs rows := by
  obtain ⟨done, row, holds, total⟩ := h
  exact ⟨withRow done row, [], holds.endRow fresh buf, by rw [← total, rowsFrom_none]⟩

/-- `n` bits `v` if a test passed, else `AbortRow()` (R211). -/
def Demod.emitIf (ok : Bool) (n : Nat) (v : Bool) (d : Demod) : Demod := if ok then d.emitRun v n else d.abortRow

theorem Demod.Owes.emitIf {ok : Bool} {n : Nat} {v : Bool} (h : d.Owes (bitsIf ok n v ++ outs) rows) :
    (d.emitIf ok n v).Owes outs rows := by
  cases ok with
  | false => exact h.endRow rfl rfl
  | true =>
    obtain ⟨done, row, holds, total⟩ := h
    exact ⟨done, row ++ List.replicate n v, holds.emitRun v n, by rw [← total, ← rowsFrom_run]; rfl⟩

end Owes

/-! ## The frame of a demodulation (R205, R207, R215) -/

theorem Desc.coding_eq_iff (p : Desc) (k : Nat) (hk : k < 8) : p.coding = BitVec.ofNat 3 k ↔ p.kind.toNat % 8 = k := by
  rw [← BitVec.toNat_inj]
  simp [Desc.coding, Nat.mod_eq_of_lt hk]

section Frame

variable {p : Desc} {pulse gap : Nat} {d : Demod}

theorem stepPair_of_pwm (coding : p.coding = 0#3) : stepPair p pulse gap d = stepPwm p pulse gap d := if_pos coding

theorem stepPair_of_ppm (coding : p.coding = 1#3) : stepPair p pulse gap d = stepPpm p gap d := by
  simp [stepPair, coding]

theorem stepPair_of_pcm (coding : p.coding = 2#3) : stepPair p pulse gap d = stepPcm p pulse gap d := by
  simp [stepPair, coding]

theorem stepPair_of_manchester {diff : Bool} (coding : p.coding = if diff then 4#3 else 3#3) :
    stepPair p pulse gap d = stepMc p diff pulse gap d := by
  cases diff <;> simp [stepPair, coding]

/-- A gap above the reset limit stops the demodulation, in every coding (R207). -/
theorem stepPair_st_of_reset (reset : p.resetLimit.toNat < gap) : (stepPair p pulse gap d).st = .endOfMessage := by
  simp only [stepPair, stepPwm, stepPpm, stepPcm, stepMc, if_pos reset]
  repeat' split
  all_goals rfl

/-- The induction over a train: what holds at the start and is kept by every pair up to the reset gap gives the buffer, if it
does at the end of the train and at a reset gap. -/
theorem buf_demodTrain_of_step {I : List (Nat × Nat) → Demod → Prop} {b : BitBuf} {train : List (Nat × Nat)}
    (running : ∀ train d, I train d → d.st ≠ .endOfMessage)
    (ends : ∀ d, I [] d → (d.endOfTrain p).buf = b)
    (resets : ∀ pulse gap rest d, p.resetLimit.toNat < gap → I ((pulse, gap) :: rest) d →
      (stepPair p pulse gap d).buf = b)
    (keeps : ∀ pulse gap rest d, ¬ p.resetLimit.toNat < gap → I ((pulse, gap) :: rest) d →
      I rest (stepPair p pulse gap d))
    (start : I train Demod.start) : (demodTrain p train).buf = b := by
  change (demodRest p train Demod.start).buf = b
  generalize Demod.start = d at start
  induction train generalizing d with
  | nil => rw [demodRest_nil p d (running _ d start), ends d start]
  | cons x rest ih =>
    obtain ⟨pulse, gap⟩ := x
    by_cases reset : p.resetLimit.toNat < gap
    · rw [demodRest_stop p pulse gap rest d (stepPair_st_of_reset reset), resets pulse gap rest d reset start]
    · have next := keeps pulse gap rest d reset start
      rw [demodRest_cons p pulse gap rest d (running _ _ next), ih _ next]

/-- The end of a train closes no half-bit outside the Manchester codings (R215). -/
theorem Demod.buf_endOfTrain (coding : p.coding ≠ 3#3 ∧ p.coding ≠ 4#3) : (d.endOfTrain p).buf = d.buf := by
  rw [Demod.endOfTrain, if_neg (by tauto)]
  rfl

end Frame

/-! ## PWM and PPM (R208 to R210) -/

/-- Between two pairs: `d` has yet to make the outputs of the marks `marks`; no row is under way while it waits for a message
to begin (R208). -/
structure Demod.Faces (p : Desc) (marks : List Mark) (rows : List (List Bool)) (d : Demod) : Prop where
  running : d.st ≠ .endOfMessage
  silent : d.st = .awaitingSync → d.fresh = true
  owes : d.Owes (outputs (p.syncWidth != 0) (p.syncWidth == 0 || d.st == .inMessage) marks) rows

section Marks

variable {p : Desc} {marks : List Mark} {rows : List (List Bool)} {d : Demod}

theorem Demod.faces_start (p : Desc) (marks : List Mark) : Demod.start.Faces p marks (p.rowsOfMarks marks) where
  running := by decide
  silent := fun _ => rfl
  owes := by
    have awaiting : (Demod.start.st == .inMessage) = false := rfl
    rw [awaiting, Bool.or_false]
    exact Demod.owes_start _

@[simp] theorem outputs_sync (sync on : Bool) (marks : List Mark) :
    outputs sync on (.sync :: marks) = none :: outputs sync true marks := by cases on <;> rfl

@[simp] theorem outputs_bad (sync on : Bool) (marks : List Mark) :
    outputs sync on (.bad :: marks) = none :: outputs sync (!sync) marks := by cases on <;> rfl

@[simp] theorem outputs_boundary (sync on : Bool) (marks : List Mark) :
    outputs sync on (.boundary :: marks) = none :: outputs sync on marks := by cases on <;> rfl

theorem Demod.Faces.of_inMessage (inside : d.st = .inMessage)
    (owes : d.Owes (outputs (p.syncWidth != 0) true marks) rows) : d.Faces p marks rows where
  running := by simp [inside]
  silent := by simp [inside]
  owes := by simpa [inside] using owes

theorem Demod.Faces.of_awaitingSync (awaiting : d.st = .awaitingSync) (fresh : d.fresh = true)
    (owes : d.Owes (outputs (p.syncWidth != 0) (p.syncWidth == 0) marks) rows) : d.Faces p marks rows where
  running := by simp [awaiting]
  silent := fun _ => fresh
  owes := by
    have closed : (d.st == .inMessage) = false := by rw [awaiting]; rfl
    rwa [closed, Bool.or_false]

/-- A symbol met inside a message is one mark (R208). -/
theorem Demod.Faces.symbol_of_inMessage {short : Bool} {k : Sym} (inside : d.st = .inMessage)
    (h : d.Faces p (markOf short k :: marks) rows) : (d.symbol p short k).Faces p marks rows := by
  have owes : d.Owes (outputs (p.syncWidth != 0) true (markOf short k :: marks)) rows := by
    simpa [inside] using h.owes
  unfold Demod.symbol
  rw [inside]
  cases k with
  | short => exact .of_inMessage inside owes.emit
  | long => exact .of_inMessage inside owes.emit
  | sync => exact .of_inMessage inside (owes.endRow rfl rfl)
  | none => exact .of_awaitingSync rfl rfl (by simpa [bne] using owes.endRow (e := d.abortRow) rfl rfl)

/-- A symbol met before a message is one mark: without a sync symbol in the profile a bit begins the message, with one only
the sync symbol does (R208). -/
theorem Demod.Faces.symbol_of_awaitingSync {short : Bool} {k : Sym} (awaiting : d.st = .awaitingSync)
    (h : d.Faces p (markOf short k :: marks) rows) : (d.symbol p short k).Faces p marks rows := by
  have fresh : d.fresh = true := h.silent awaiting
  have owes : d.Owes (outputs (p.syncWidth != 0) (p.syncWidth == 0) (markOf short k :: marks)) rows := by
    have closed : (d.st == .inMessage) = false := by rw [awaiting]; rfl
    simpa only [closed, Bool.or_false] using h.owes
  have bit_begins {v : Bool} (o : d.Owes (some v :: outputs (p.syncWidth != 0) true marks) rows) :
      (d.enter.emit v).Faces p marks rows := .of_inMessage rfl (Demod.Owes.emit (d := d.enter) (o.congr rfl rfl))
  unfold Demod.symbol
  rw [awaiting]
  by_cases sync : p.syncWidth = 0
  · simp only [if_pos sync]
    simp only [sync, bne_self_eq_false, beq_self_eq_true] at owes bit_begins
    cases k with
    | short => exact bit_begins owes
    | long => exact bit_begins owes
    | sync => exact .of_awaitingSync awaiting fresh (by simpa [sync] using owes.endRow fresh rfl)
    | none => exact .of_awaitingSync awaiting fresh (by simpa [sync] using owes.endRow fresh rfl)
  · simp only [if_neg sync]
    have unheard : (p.syncWidth == 0) = false := by simpa using sync
    rw [unheard] at owes
    cases k with
    | short => exact .of_awaitingSync awaiting fresh (by rw [unheard]; exact owes)
    | long => exact .of_awaitingSync awaiting fresh (by rw [unheard]; exact owes)
    | sync => exact .of_inMessage rfl (owes.endRow fresh rfl)
    | none => exact .of_awaitingSync awaiting fresh (by simpa [bne] using owes.endRow fresh rfl)

/-- One symbol of either coding is one mark (R208 to R210). -/
theorem Demod.Faces.symbol {short : Bool} {k : Sym} (h : d.Faces p (markOf short k :: marks) rows) :
    (d.symbol p short k).Faces p marks rows := by
  cases st : d.st with
  | awaitingSync => exact h.symbol_of_awaitingSync st
  | inMessage => exact h.symbol_of_inMessage st
  | endOfMessage => exact absurd st h.running

/-- A boundary gap is a mark and ends the row (R207). -/
theorem Demod.Faces.boundary (h : d.Faces p (.boundary :: marks) rows) : d.terminateRow.Faces p marks rows :=
  ⟨h.running, fun _ => rfl, (outputs_boundary .. ▸ h.owes).endRow rfl rfl⟩

theorem Demod.Faces.buf_eq (h : d.Faces p [] rows) : d.buf = stored rows :=
  Demod.Owes.buf_eq (by simpa [outputs] using h.owes)

theorem Demod.Faces.buf_endOfTrain (coding : p.coding ≠ 3#3 ∧ p.coding ≠ 4#3) (h : d.Faces p [] rows) :
    (d.endOfTrain p).buf = stored rows := by
  rw [Demod.buf_endOfTrain coding, h.buf_eq]

/-- PWM: the pulse is a mark, then the gap's limits (R209). -/
theorem demodTrain_pwm (coding : p.coding = 0#3) (train : List (Nat × Nat)) :
    (demodTrain p train).buf = stored (p.rowsOfMarks (pwmMarks p train)) := by
  refine buf_demodTrain_of_step (I := fun pairs d => d.Faces p (pwmMarks p pairs) (p.rowsOfMarks (pwmMarks p train)))
    (fun _ _ h => h.running) (fun d h => h.buf_endOfTrain (by simp [coding])) ?_ ?_ (Demod.faces_start _ _)
  · intro pulse gap rest d reset h
    rw [pwmMarks, if_pos reset] at h
    rw [stepPair_of_pwm coding, stepPwm, if_pos reset]
    exact h.symbol.buf_eq
  · intro pulse gap rest d inside h
    rw [pwmMarks, if_neg inside] at h
    rw [stepPair_of_pwm coding, stepPwm, if_neg inside]
    have after := h.symbol
    split at after
    next boundary => rw [if_pos boundary]; exact after.boundary
    next within => rw [if_neg within]; exact after

/-- PPM: the gap is a mark, a boundary or a symbol (R210). -/
theorem demodTrain_ppm (coding : p.coding = 1#3) (train : List (Nat × Nat)) :
    (demodTrain p train).buf = stored (p.rowsOfMarks (ppmMarks p train)) := by
  refine buf_demodTrain_of_step (I := fun pairs d => d.Faces p (ppmMarks p pairs) (p.rowsOfMarks (ppmMarks p train)))
    (fun _ _ h => h.running) (fun d h => h.buf_endOfTrain (by simp [coding])) ?_ ?_ (Demod.faces_start _ _)
  · intro pulse gap rest d reset h
    rw [ppmMarks, if_pos reset] at h
    rw [stepPair_of_ppm coding, stepPpm, if_pos reset]
    exact h.buf_eq
  · intro pulse gap rest d inside h
    rw [ppmMarks, if_neg inside] at h
    rw [stepPair_of_ppm coding, stepPpm, if_neg inside]
    split at h
    next boundary => rw [if_pos boundary]; exact h.boundary
    next within => rw [if_neg within]; exact h.symbol

end Marks

/-! ## PCM (R211, R212) -/

section Pcm

variable {p : Desc} {pulse gap : Nat}

theorem pcmOnes_eq (p : Desc) (pulse : Nat) :
    pcmOnes p pulse = if (p.pulseOnes pulse).2 then some (p.pulseOnes pulse).1 else none := by
  by_cases nrz : p.shortWidth = p.longWidth <;>
    simp [pcmOnes, Desc.pulseOnes, nrz, absDiff_eq_natAbs]

theorem pcmZeros_eq (p : Desc) (pulse gap : Nat) :
    pcmZeros p pulse gap = if (p.gapZeros pulse gap).2 then some (p.gapZeros pulse gap).1 else none := by
  by_cases nrz : p.shortWidth = p.longWidth <;>
    simp [pcmZeros, Desc.gapZeros, nrz, absDiff_eq_natAbs]

theorem Demod.emitN_st (v : Bool) (n : Nat) (d : Demod) : (Demod.emitN v n d).st = d.st := by
  induction n generalizing d with
  | zero => rfl
  | succ n ih => exact ih (d.emit v)

theorem Demod.emitIf_running {ok : Bool} {n : Nat} {v : Bool} {d : Demod} (running : d.st ≠ .endOfMessage) :
    (d.emitIf ok n v).st ≠ .endOfMessage := by
  cases ok with
  | false => exact nofun
  | true => exact (Demod.emitN_st ..).symm ▸ running

/-- `Step_PCM` in the terms of the reference: ones, limits, zeros (R211). -/
theorem stepPcm_eq (p : Desc) (pulse gap : Nat) (d : Demod) :
    stepPcm p pulse gap d =
      let ones := p.pulseOnes pulse
      let zeros := p.gapZeros pulse gap
      let high := d.enter.emitIf ones.2 ones.1 true
      if p.resetLimit.toNat < gap then high.terminateRow.stop
      else if p.gapLimit.toNat < gap then high.terminateRow
      else if ones.2 then high.emitIf zeros.2 zeros.1 false
      else high := by
  simp only [stepPcm, pcmOnes_eq, pcmZeros_eq]
  cases (p.pulseOnes pulse).2 with
  | false => rfl
  | true => cases (p.gapZeros pulse gap).2 <;> rfl

/-- PCM: the ones of the pulse, then the gap's limits, then the zeros after a valid pulse (R211). -/
theorem demodTrain_pcm (coding : p.coding = 2#3) (train : List (Nat × Nat)) :
    (demodTrain p train).buf = stored (rowsFrom [] (pcmOutputs p train)) := by
  refine buf_demodTrain_of_step
    (I := fun pairs d => d.st ≠ .endOfMessage ∧ d.Owes (pcmOutputs p pairs) (rowsFrom [] (pcmOutputs p train)))
    (fun _ _ h => h.1) (fun d h => ?_) ?_ ?_ ⟨by decide, Demod.owes_start _⟩
  · rw [Demod.buf_endOfTrain (by simp [coding]), h.2.buf_eq]
  · intro pulse gap rest d reset ⟨_, owes⟩
    rw [pcmOutputs, if_pos reset] at owes
    rw [stepPair_of_pcm coding, stepPcm_eq, if_pos reset]
    exact ((owes.congr rfl rfl).emitIf (d := d.enter)).buf_eq
  · intro pulse gap rest d inside ⟨_, owes⟩
    rw [pcmOutputs, if_neg inside] at owes
    rw [stepPair_of_pcm coding, stepPcm_eq, if_neg inside]
    have high := (owes.congr rfl rfl).emitIf (d := d.enter)
    have running : (d.enter.emitIf (p.pulseOnes pulse).2 (p.pulseOnes pulse).1 true).st ≠ .endOfMessage :=
      Demod.emitIf_running nofun
    split at high
    next boundary => rw [if_pos boundary]; exact ⟨running, high.endRow rfl rfl⟩
    next within =>
      rw [if_neg within]
      split at high
      next ok => rw [if_pos ok]; exact ⟨Demod.emitIf_running running, high.emitIf⟩
      next bad => rw [if_neg bad]; exact ⟨running, high⟩

end Pcm

/-! ## The Manchester codings (R213, R214) -/

/-- The cell in which a demodulation starts, and starts again after an abort or a boundary. -/
def Cell.new : Cell := { half := none, last := none }

/-- `d` is between two chips, in the cell `c`; Manchester does not look at the last level. -/
structure Demod.InCell (diff : Bool) (c : Cell) (d : Demod) : Prop where
  running : d.st ≠ .endOfMessage
  pend : d.pend = c.half
  prev : diff = true → d.prev = c.last

/-- What a run of chips leaves: the cell it ended in, or after an abort a new one, and the rest of the outputs owed. -/
structure Demod.Ran (diff : Bool) (c : Option Cell) (outs : List (Option Bool)) (rows : List (List Bool))
    (r : Demod × Bool) : Prop where
  cell : r.1.InCell diff (c.getD .new)
  aborted : r.2 = c.isNone
  owes : r.1.Owes outs rows

section Chips

variable {p : Desc} {diff v : Bool} {pulse gap : Nat} {c : Cell} {d : Demod} {outs : List (Option Bool)}
  {rows : List (List Bool)}

theorem Demod.Owes.abort (owes : d.Owes (none :: outs) rows) : Demod.Ran diff none outs rows (d.abortRow, true) :=
  ⟨⟨nofun, rfl, fun _ => rfl⟩, rfl, owes.endRow rfl rfl⟩

theorem Demod.feedRun_of_abort {e : Demod} (n : Nat) (feed : d.feed diff v = (e, true)) :
    d.feedRun diff v (n + 1) = (e, true) := by rw [Demod.feedRun, feed]

theorem Demod.feedRun_of_go {e : Demod} (n : Nat) (feed : d.feed diff v = (e, false)) :
    d.feedRun diff v (n + 1) = e.feedRun diff v n := by rw [Demod.feedRun, feed]

/-- `Feed` for each chip of a run (R213, R214). -/
theorem Demod.InCell.feedRun (n : Nat) : ∀ {c : Cell} {d : Demod}, d.InCell diff c →
    d.Owes ((cellOutputs diff v n c).1 ++ outs) rows →
      Demod.Ran diff (cellOutputs diff v n c).2 outs rows (d.feedRun diff v n) := by
  induction n with
  | zero => exact fun cell owes => ⟨cell, rfl, owes⟩
  | succ n ih =>
    intro c d cell owes
    obtain ⟨half, last⟩ := c
    obtain ⟨running, pend, prev⟩ := cell
    simp only at pend prev
    cases half with
    | none =>
      by_cases clash : diff = true ∧ last = some v
      · obtain ⟨rfl, rfl⟩ := clash
        have feed : d.feed true v = (d.abortRow, true) := by simp [Demod.feed, pend, prev]
        rw [Demod.feedRun_of_abort n feed]
        simp only [cellOutputs, Bool.true_and, beq_self_eq_true, if_true] at owes ⊢
        exact owes.abort
      · have opens : (diff && last == some v) = false := by simpa using clash
        have feed : d.feed diff v = ({ d with pend := some v, st := .inMessage }, false) := by
          have free : ¬ (diff = true ∧ d.prev = some v) := fun ⟨hd, hp⟩ => clash ⟨hd, by rw [← prev hd, hp]⟩
          simp only [Demod.feed, pend, if_neg free]
        rw [Demod.feedRun_of_go n feed]
        simp only [cellOutputs, opens, Bool.false_eq_true, if_false] at owes ⊢
        exact ih ⟨nofun, rfl, prev⟩ (owes.congr rfl rfl)
    | some h =>
      cases diff with
      | true =>
        have feed : d.feed true v = ({ d.emit (h == v) with prev := some v, pend := none }, false) := by
          simp only [Demod.feed, pend, if_true]
        rw [Demod.feedRun_of_go n feed]
        simp only [cellOutputs, Bool.not_true, Bool.false_and, Bool.false_eq_true, if_false, if_true] at owes ⊢
        exact ih ⟨running, rfl, fun _ => rfl⟩ (owes.emit.congr rfl rfl)
      | false =>
        by_cases equal : h = v
        · subst equal
          have feed : d.feed false h = (d.abortRow, true) := by simp [Demod.feed, pend]
          rw [Demod.feedRun_of_abort n feed]
          simp only [cellOutputs, Bool.not_false, Bool.true_and, beq_self_eq_true, if_true] at owes ⊢
          exact owes.abort
        · have differ : (h == v) = false := by simpa using equal
          have feed : d.feed false v = ({ d.emit v with pend := none }, false) := by
            simp [Demod.feed, pend, equal]
          rw [Demod.feedRun_of_go n feed]
          simp only [cellOutputs, Bool.not_false, Bool.true_and, differ, Bool.false_eq_true, if_false] at owes ⊢
          exact ih ⟨running, rfl, nofun⟩ (owes.emit.congr rfl rfl)

/-- One run of a train: its chips, or an abort where its width is bad (R213). -/
theorem Demod.InCell.run (n : Option Nat) (cell : d.InCell diff c) (owes : d.Owes ((runOutputs diff v n c).1 ++ outs) rows) :
    Demod.Ran diff (runOutputs diff v n c).2 outs rows (d.run diff v n) := by
  cases n with
  | none => exact owes.abort
  | some n => exact cell.feedRun n owes

/-- `Close()` makes the open high half-bit a 0 and leaves a new cell (R213). -/
theorem Demod.Owes.close {c : Option Cell} (cell : d.InCell diff (c.getD .new)) (owes : d.Owes (closing c ++ outs) rows) :
    d.close.InCell diff .new ∧ d.close.Owes outs rows := by
  have pend : d.pend = c.bind Cell.half := by rw [cell.pend]; cases c <;> rfl
  rw [closing, ← pend] at owes
  by_cases high : d.pend = some true
  · rw [if_pos high] at owes
    rw [Demod.close, if_pos high]
    exact ⟨⟨cell.running, rfl, fun _ => rfl⟩, owes.emit.congr rfl rfl⟩
  · rw [if_neg high] at owes
    rw [Demod.close, if_neg high]
    exact ⟨⟨cell.running, rfl, fun _ => rfl⟩, owes.congr rfl rfl⟩

theorem chips_eq_runLength (p : Desc) (w : Nat) : chips p w = p.runLength w := by
  simp only [chips, Desc.runLength, absDiff_eq_natAbs]
  by_cases one : rnd w p.shortWidth.toNat = 1
  · simp [one]
  · by_cases two : rnd w p.shortWidth.toNat = 2 <;> simp [one, two]

/-- `Step_MC` in the terms of the reference: the pulse's chips, the limits, the gap's chips (R213). -/
theorem stepMc_eq (p : Desc) (diff : Bool) (pulse gap : Nat) (d : Demod) :
    stepMc p diff pulse gap d =
      let high := d.run diff true (p.runLength pulse)
      if p.resetLimit.toNat < gap then high.1.close.terminateRow.stop
      else if p.gapLimit.toNat < gap then high.1.close.terminateRow
      else if high.2 then high.1
      else (high.1.run diff false (p.runLength gap)).1 := by
  rw [← chips_eq_runLength, ← chips_eq_runLength]
  rfl

/-- Manchester of either kind: the chips of the pulse, then the limits of the gap, then its chips unless the pulse aborted
(R213). -/
theorem demodTrain_manchester (coding : p.coding = if diff then 4#3 else 3#3) (train : List (Nat × Nat)) :
    (demodTrain p train).buf = stored (rowsFrom [] (chipOutputs p diff train .new)) := by
  refine buf_demodTrain_of_step
    (I := fun pairs d => ∃ c, d.InCell diff c ∧
      d.Owes (chipOutputs p diff pairs c) (rowsFrom [] (chipOutputs p diff train .new)))
    (fun _ _ ⟨_, cell, _⟩ => cell.running) ?_ ?_ ?_
    ⟨.new, ⟨by decide, rfl, fun _ => rfl⟩, Demod.owes_start _⟩
  · rintro d ⟨c, cell, owes⟩
    have manchester : p.coding = 3#3 ∨ p.coding = 4#3 := by cases diff <;> simp [coding]
    rw [Demod.endOfTrain, if_pos manchester]
    exact (Demod.Owes.close (c := some c) (outs := []) cell (by simpa [chipOutputs] using owes)).2.buf_eq
  · rintro pulse gap rest d reset ⟨c, cell, owes⟩
    rw [chipOutputs, if_pos reset] at owes
    have high := cell.run _ owes
    rw [← List.append_nil (closing _)] at high
    rw [stepPair_of_manchester coding, stepMc_eq, if_pos reset]
    exact (Demod.Owes.close high.cell high.owes).2.buf_eq
  · rintro pulse gap rest d inside ⟨c, cell, owes⟩
    rw [chipOutputs, if_neg inside] at owes
    rw [stepPair_of_manchester coding, stepMc_eq, if_neg inside]
    have high := cell.run _ owes
    split at high
    next boundary =>
      rw [if_pos boundary]
      obtain ⟨closed, rest_owed⟩ := Demod.Owes.close high.cell high.owes
      exact ⟨.new, ⟨closed.running, closed.pend, closed.prev⟩, rest_owed.endRow rfl rfl⟩
    next within =>
      rw [if_neg within]
      cases ended : (runOutputs diff true (p.runLength pulse) c).2 with
      | none =>
        rw [ended] at high
        have aborted : (d.run diff true (p.runLength pulse)).2 = true := high.aborted
        rw [if_pos aborted]
        exact ⟨.new, high.cell, high.owes⟩
      | some c' =>
        rw [ended] at high
        have goes_on : (d.run diff true (p.runLength pulse)).2 = false := high.aborted
        rw [goes_on, if_neg Bool.false_ne_true]
        have low := high.cell.run _ high.owes
        exact ⟨_, low.cell, low.owes⟩

end Chips

/-! ## The statements on every train -/

/-- Settles O59: the marks of a train are what the demodulator meets, symbol by symbol. -/
theorem pwmAndPpmLeaveTheRowsOfTheirMarks : Obligations.PwmAndPpmLeaveTheRowsOfTheirMarks := fun p train =>
  ⟨fun kind => demodTrain_pwm ((p.coding_eq_iff 0 (by decide)).2 kind) train,
    fun kind => demodTrain_ppm ((p.coding_eq_iff 1 (by decide)).2 kind) train⟩

/-- Settles O60: the outputs of a train are what the demodulator emits, pair by pair. -/
theorem pcmAndManchesterLeaveTheRowsTheyStandFor : Obligations.PcmAndManchesterLeaveTheRowsTheyStandFor := fun p train =>
  ⟨fun kind => demodTrain_pcm ((p.coding_eq_iff 2 (by decide)).2 kind) train,
    fun kind => demodTrain_manchester (diff := false) ((p.coding_eq_iff 3 (by decide)).2 kind) train,
    fun kind => demodTrain_manchester (diff := true) ((p.coding_eq_iff 4 (by decide)).2 kind) train⟩

end Sys2Proof.Machine

/-!
PROOFS of the family 44_demodulator.md, the second part: capacity, what a demodulation depends on, the reset gap, and the class
of a width.
-/

namespace Sys2Proof.Machine

/-! ## The rows of every demodulation (R206, R216) -/

theorem BitBuf.addBit_rows_nonempty {b : BitBuf} {v : Bool} (h : ∀ row ∈ b.rows, row ≠ []) :
    ∀ row ∈ (b.addBit v).rows, row ≠ [] := by
  cases ovf : b.ovf with
  | true => rwa [b.addBit_of_ovf v ovf]
  | false =>
    rcases b.rows_cases with none_yet | ⟨init, last, split⟩
    · rw [b.addBit_of_empty v ovf none_yet]
      simp
    · rw [b.addBit_of_rows v init last ovf split]
      have grown : rowAppend v last ≠ [] := by
        by_cases full : last.length = Config.rowCapBits
        · rw [rowAppend_of_full v last full]
          exact h last (by simp [split])
        · simp [rowAppend_of_room v last full]
      intro row inside
      rcases List.mem_append.1 inside with earlier | new
      · exact h row (by simp [split, earlier])
      · rwa [List.mem_singleton.1 new]

/-- A row opened for a bit takes it: where there is no room, neither happens. -/
theorem BitBuf.addRow_addBit_rows_nonempty {b : BitBuf} {v : Bool} (h : ∀ row ∈ b.rows, row ≠ []) :
    ∀ row ∈ (b.addRow.addBit v).rows, row ≠ [] := by
  cases ovf : b.ovf with
  | true => rwa [b.addRow_of_ovf ovf, b.addBit_of_ovf v ovf]
  | false =>
    by_cases full : b.rows.length = Config.maxRows
    · rwa [b.addRow_of_full ovf full, BitBuf.addBit_of_ovf _ v rfl]
    · rw [b.addRow_of_room ovf full, BitBuf.addBit_of_rows _ v b.rows [] rfl rfl, rowAppend_of_room v [] (by simp)]
      intro row inside
      rcases List.mem_append.1 inside with earlier | new
      · exact h row earlier
      · simp [List.mem_singleton.1 new]

/-- An emitted bit leaves no row empty. -/
theorem Demod.emit_rows_nonempty (d : Demod) (v : Bool) (h : ∀ row ∈ d.buf.rows, row ≠ []) :
    ∀ row ∈ (d.emit v).buf.rows, row ≠ [] := by
  rw [Demod.emit]
  split
  · exact BitBuf.addRow_addBit_rows_nonempty h
  · exact BitBuf.addBit_rows_nonempty h

/-! ## What a demodulation depends on (R201 to R203) -/

theorem demodTrain_congr {p q : Desc} (coding : p.coding = q.coding)
    (step : ∀ pulse gap d, stepPair p pulse gap d = stepPair q pulse gap d) (train : List (Nat × Nat)) :
    demodTrain p train = demodTrain q train := by
  have pairs : ∀ d, demodPairs p train d = demodPairs q train d := by
    induction train with
    | nil => exact fun _ => rfl
    | cons x rest ih => intro d; simp only [demodPairs, step, ih]
  simp only [demodTrain, pairs, Demod.endOfTrain, coding]

theorem stepPair_congr {p q : Desc} (same : p.SameTimings q) (pulse gap : Nat) (d : Demod) :
    stepPair p pulse gap d = stepPair q pulse gap d := by
  obtain ⟨coding, short, long, sync, gapLimit, resetLimit, tolerance⟩ := same
  have classes : classify p = classify q := by
    funext w
    simp only [classify, Desc.references, short, long, sync, tolerance]
  have symbols : Demod.symbol p = Demod.symbol q := by
    funext shortBit k d
    simp only [Demod.symbol, sync]
  have ones : pcmOnes p = pcmOnes q := by
    funext w
    simp only [pcmOnes, short, long, tolerance]
  have zeros : pcmZeros p = pcmZeros q := by
    funext w g
    simp only [pcmZeros, short, long, tolerance]
  have runs : chips p = chips q := by
    funext w
    simp only [chips, short, tolerance]
  simp only [stepPair, stepPwm, stepPpm, stepPcm, stepMc, classes, symbols, ones, zeros, runs, coding, gapLimit, resetLimit]

/-- After a gap above the reset limit no pair is looked at (R207). -/
theorem demodPairs_append_of_reset {p : Desc} {gap : Nat} (reset : p.resetLimit.toNat < gap) (pulse : Nat)
    (before after : List (Nat × Nat)) :
    ∀ d, demodPairs p (before ++ (pulse, gap) :: after) d = demodPairs p (before ++ [(pulse, gap)]) d := by
  induction before with
  | nil =>
    intro d
    rw [List.nil_append, List.nil_append, demodPairs, demodPairs, if_pos (stepPair_st_of_reset reset),
      if_pos (stepPair_st_of_reset reset)]
  | cons x before ih => intro d; simp only [List.cons_append, demodPairs, ih]

/-! ## Widths (R204) -/

theorem mem_references_iff (p : Desc) (r : Nat) (k : Sym) : (r, k) ∈ p.references ↔ p.HasReference k r := by
  by_cases sync : p.syncWidth = 0#32 <;> simp [Desc.references, Desc.HasReference, sync, and_comm]

theorem Desc.HasReference.unique {p : Desc} {k : Sym} {r r' : Nat} (h : p.HasReference k r) (h' : p.HasReference k r') :
    r = r' := by
  cases k <;> simp only [Desc.HasReference, reduceCtorEq, false_and, true_and, false_or, or_false] at h h'
  case short | long => rw [h, h']
  case sync => rw [h.2, h'.2]

/-- A profile has at most one reference of each class. -/
theorem nodup_reference_classes (p : Desc) : (p.references.map Prod.snd).Nodup := by
  by_cases sync : p.syncWidth = 0#32 <;> simp [Desc.references, sync]

/-- The elements of least first component are `x` alone exactly when `x` is strictly least. -/
theorem least_eq_singleton_iff {α : Type} {l : List (Nat × α)} (distinct : l.Nodup) (x : Nat × α) :
    (l.filter fun a => l.all fun b => a.1 ≤ b.1) = [x] ↔ x ∈ l ∧ ∀ b ∈ l, b ≠ x → x.1 < b.1 := by
  have mem (a : Nat × α) : a ∈ (l.filter fun a => l.all fun b => a.1 ≤ b.1) ↔ a ∈ l ∧ ∀ b ∈ l, a.1 ≤ b.1 := by simp
  constructor
  · intro single
    rw [single] at mem
    obtain ⟨inside, least⟩ := (mem x).1 (List.mem_singleton_self x)
    refine ⟨inside, fun b hb other => Nat.lt_of_not_le fun le => other ?_⟩
    exact List.mem_singleton.1 ((mem b).2 ⟨hb, fun c hc => le.trans (least c hc)⟩)
  · rintro ⟨inside, strict⟩
    rw [← List.perm_singleton, List.perm_ext_iff_of_nodup (distinct.filter _) (List.nodup_singleton x)]
    intro a
    rw [mem, List.mem_singleton]
    constructor
    · rintro ⟨ha, least⟩
      by_contra other
      exact Nat.not_lt.2 (least x inside) (strict a ha other)
    · rintro rfl
      refine ⟨inside, fun b hb => ?_⟩
      rcases eq_or_ne b a with rfl | other
      · exact Nat.le_refl _
      · exact Nat.le_of_lt (strict b hb other)

/-- The references within tolerance of a width, as distance and class. -/
def Desc.near (p : Desc) (w : Nat) : List (Nat × Sym) :=
  (p.references.map fun rc => (absDiff w rc.1, rc.2)).filter fun dc => dc.1 ≤ p.tolerance.toNat

theorem mem_near_iff (p : Desc) (w dist : Nat) (k : Sym) :
    (dist, k) ∈ p.near w ↔
      ∃ r, p.HasReference k r ∧ ((w : Int) - r).natAbs = dist ∧ dist ≤ p.tolerance.toNat := by
  simp only [Desc.near, List.mem_filter, List.mem_map, Prod.mk.injEq, Prod.exists, mem_references_iff, absDiff_eq_natAbs,
    decide_eq_true_eq]
  constructor
  · rintro ⟨⟨r, _, has, distance, rfl⟩, within⟩
    exact ⟨r, has, distance, within⟩
  · rintro ⟨r, has, distance, within⟩
    exact ⟨⟨r, k, has, distance, rfl⟩, within⟩

theorem nodup_near (p : Desc) (w : Nat) : (p.near w).Nodup := by
  refine List.Nodup.filter _ (List.Nodup.of_map Prod.snd ?_)
  rw [List.map_map]
  exact nodup_reference_classes p

theorem classify_eq_iff (p : Desc) (w : Nat) (k : Sym) (hk : k ≠ .none) :
    classify p w = k ↔ ∃ dist, (dist, k) ∈ p.near w ∧ ∀ b ∈ p.near w, b ≠ (dist, k) → dist < b.1 := by
  simp only [← least_eq_singleton_iff (nodup_near p w)]
  unfold classify
  dsimp only
  split
  next dc single =>
    change ((p.near w).filter fun a => (p.near w).all fun b => a.1 ≤ b.1) = [dc] at single
    rw [single]
    constructor
    · rintro rfl
      exact ⟨dc.1, rfl⟩
    · rintro ⟨dist, same⟩
      rw [List.singleton_inj.1 same]
  next several =>
    constructor
    · exact fun same => absurd same.symm hk
    · rintro ⟨dist, single⟩
      exact absurd single (several _)

/-- `rnd` is the rounded quotient: a division with remainder of `2 x + t` by `2 t`. -/
theorem rnd_bounds (x t : Nat) (ht : 1 ≤ t) : rnd x t * (2 * t) ≤ 2 * x + t ∧ 2 * x + t < (rnd x t + 1) * (2 * t) :=
  by
  have positive : 0 < 2 * t := by omega
  exact ⟨Nat.div_mul_le_self .., Nat.lt_mul_of_div_lt (Nat.lt_succ_self _) positive⟩

/-! ## The statements -/

/-- Settles O40: `Emit` opens a row with its first bit and keeps the capacity. -/
theorem demodulatedRowsAreNonEmptyAndFit : Obligations.DemodulatedRowsAreNonEmptyAndFit := fun p train =>
  ⟨demodTrain_keeps (fun b => ∀ row ∈ b.rows, row ≠ []) Demod.emit_rows_nonempty nofun p train, fits_demodTrain p train⟩

/-- Settles O41: no step looks at another word. -/
theorem demodulationIgnoresOtherWords : Obligations.DemodulationIgnoresOtherWords := by
  refine fun p train => ⟨fun q same => demodTrain_congr same.1 (stepPair_congr same) train, fun pcm x => ?_,
    fun manchester x y => ?_⟩
  · refine demodTrain_congr (p := { p with syncWidth := x }) (q := p) rfl (fun pulse gap d => ?_) train
    rw [stepPair_of_pcm pcm, stepPair_of_pcm (p := { p with syncWidth := x }) pcm]
    rfl
  · obtain ⟨diff, coding⟩ : ∃ diff : Bool, p.coding = if diff then 4#3 else 3#3 :=
      manchester.elim (⟨false, ·⟩) (⟨true, ·⟩)
    refine demodTrain_congr (p := { p with longWidth := x, syncWidth := y }) (q := p) rfl (fun pulse gap d => ?_) train
    rw [stepPair_of_manchester coding, stepPair_of_manchester (p := { p with longWidth := x, syncWidth := y }) coding]
    rfl

/-- Settles O42: every coding stops at the reset gap. -/
theorem resetGapEndsDemodulation : Obligations.ResetGapEndsDemodulation := fun p before after pulse gap reset => by
  rw [demodTrain, demodTrain, demodPairs_append_of_reset reset]

/-- Settles O43: the references within tolerance of least distance are one exactly when it is strictly the nearest of all. -/
theorem classifyPicksUniqueNearest : Obligations.ClassifyPicksUniqueNearest := by
  refine ⟨fun p w k hk => ?_, rnd_bounds⟩
  rw [classify_eq_iff p w k hk]
  constructor
  · rintro ⟨dist, inside, strict⟩
    obtain ⟨r, has, rfl, within⟩ := (mem_near_iff ..).1 inside
    refine ⟨r, has, within, fun k' r' has' other => ?_⟩
    by_cases within' : ((w : Int) - r').natAbs ≤ p.tolerance.toNat
    · exact strict (_, k') ((mem_near_iff ..).2 ⟨r', has', rfl, within'⟩) fun same => other (congrArg Prod.snd same)
    · omega
  · rintro ⟨r, has, within, strict⟩
    refine ⟨_, (mem_near_iff ..).2 ⟨r, has, rfl, within⟩, ?_⟩
    rintro ⟨dist', k'⟩ inside' other
    obtain ⟨r', has', rfl, -⟩ := (mem_near_iff ..).1 inside'
    refine strict k' r' has' fun same => other ?_
    subst same
    rw [has.unique has']

end Sys2Proof.Machine

/-!
PROOFS of the family 44_demodulator.md, the third part: the trains that spell a message, and the command.
-/

namespace Sys2Proof.Machine

/-! ## The trains of a message (R208 to R215) -/

/-- The end of a last row adds nothing. -/
theorem rowsFrom_append_none (outs : List (Option Bool)) : ∀ row, rowsFrom row (outs ++ [none]) = rowsFrom row outs := by
  induction outs with
  | nil => intro row; simp [rowsFrom]
  | cons o outs ih =>
    intro row
    cases o <;> simp only [List.cons_append, rowsFrom, ih]

/-- A message, with or without the end of its row, is stored as one row, none when it is empty. -/
theorem stored_message {bits : List Bool} {outs : List (Option Bool)} (fits : bits.length ≤ 4096)
    (spelled : outs = bits.map some ∨ outs = bits.map some ++ [none]) :
    stored (rowsFrom [] outs) = { rows := if bits = [] then [] else [bits], ovf := false } := by
  rcases spelled with rfl | rfl
  · exact stored_rowsFrom_bits bits fits
  · rw [rowsFrom_append_none, stored_rowsFrom_bits bits fits]

section Messages

variable {p : Desc} {bits : List Bool} {rest : List (Nat × Nat)}

theorem outputs_bits (marks : List Mark) :
    outputs false true (bits.map .bit ++ marks) = bits.map some ++ outputs false true marks := by
  induction bits with
  | nil => rfl
  | cons v vs ih => simp only [List.map_cons, List.cons_append, outputs, ih]

/-- Without a sync symbol, the marks of a message's bits, with or without a boundary, leave the message. -/
theorem stored_rowsOfMarks {marks : List Mark} (sync : p.syncWidth = 0) (fits : bits.length ≤ 4096)
    (spelled : marks = bits.map .bit ∨ marks = bits.map .bit ++ [.boundary]) :
    stored (p.rowsOfMarks marks) = { rows := if bits = [] then [] else [bits], ovf := false } := by
  have heard : p.rowsOfMarks marks = rowsFrom [] (outputs false true marks) := by simp [Desc.rowsOfMarks, sync]
  rw [heard]
  refine stored_message fits (spelled.imp ?_ ?_) <;> rintro rfl
  · simpa [outputs] using outputs_bits (bits := bits) []
  · simpa [outputs] using outputs_bits (bits := bits) [.boundary]

theorem pwmMarks_append {train : List (Nat × Nat)} (inside : ∀ x ∈ train, p.InsideLimits x.2) (rest : List (Nat × Nat)) :
    pwmMarks p (train ++ rest) = train.map (fun x => markOf true (classify p x.1)) ++ pwmMarks p rest := by
  induction train with
  | nil => rfl
  | cons x train ih =>
    obtain ⟨gapInside, resetInside⟩ := inside x List.mem_cons_self
    rw [List.cons_append, pwmMarks, if_neg (by omega), if_neg (by omega), ih fun y hy => inside y (List.mem_cons_of_mem _ hy)]
    rfl

theorem ppmMarks_append {train : List (Nat × Nat)} (inside : ∀ x ∈ train, p.InsideLimits x.2) (rest : List (Nat × Nat)) :
    ppmMarks p (train ++ rest) = train.map (fun x => markOf false (classify p x.2)) ++ ppmMarks p rest := by
  induction train with
  | nil => rfl
  | cons x train ih =>
    obtain ⟨gapInside, resetInside⟩ := inside x List.mem_cons_self
    rw [List.cons_append, ppmMarks, if_neg (by omega), if_neg (by omega), ih fun y hy => inside y (List.mem_cons_of_mem _ hy)]
    rfl

/-- Widths that classify as the symbols of a message have its bits as their marks. -/
theorem map_markOf_eq {l : List (Nat × Nat)} {classOf : Nat × Nat → Sym} {symbol : Bool → Sym} {short : Bool}
    (mark : ∀ v, markOf short (symbol v) = .bit v) (spelled : l.map classOf = bits.map symbol) :
    l.map (fun x => markOf short (classOf x)) = bits.map .bit := by
  calc l.map (fun x => markOf short (classOf x)) = (l.map classOf).map (markOf short) := by rw [List.map_map]; rfl
    _ = bits.map .bit := by rw [spelled, List.map_map]; exact List.map_congr_left fun v _ => mark v

theorem gapLimit_lt_of_not_insideLimits {gap : Nat} (outside : ¬ p.InsideLimits gap) (reset : ¬ p.resetLimit.toNat < gap) :
    p.gapLimit.toNat < gap := by
  unfold Desc.InsideLimits at outside
  omega

end Messages

/-- Settles O44: inside the limits the marks are the symbols, and a last gap beyond them adds at most a boundary. -/
theorem pulseWidthAndPositionTrainsDecode : Obligations.PulseWidthAndPositionTrainsDecode := by
  refine fun p bits train sync fits => ⟨fun pwm inside spelled => ?_, fun ppm inside spelled =>
    ⟨?_, fun pulse gap outside => ?_⟩⟩
  · rw [demodTrain_pwm pwm]
    refine stored_rowsOfMarks sync fits ?_
    have symbols := map_markOf_eq (short := true) (fun v => by cases v <;> rfl) spelled
    rcases List.eq_nil_or_concat train with rfl | ⟨init, ⟨pulse, gap⟩, rfl⟩
    · exact .inl symbols
    · simp only [List.dropLast_concat, List.concat_eq_append] at inside symbols ⊢
      rw [pwmMarks_append inside, ← symbols]
      simp only [pwmMarks]
      split_ifs <;> simp
  · have symbols := map_markOf_eq (short := false) (fun v => by cases v <;> rfl) spelled
    rw [demodTrain_ppm ppm]
    refine stored_rowsOfMarks sync fits (.inl ?_)
    simpa [ppmMarks, symbols] using ppmMarks_append inside []
  · have symbols := map_markOf_eq (short := false) (fun v => by cases v <;> rfl) spelled
    rw [demodTrain_ppm ppm, ppmMarks_append inside, symbols]
    refine stored_rowsOfMarks sync fits ?_
    by_cases reset : p.resetLimit.toNat < gap
    · simp [ppmMarks, reset]
    · simp [ppmMarks, reset, gapLimit_lt_of_not_insideLimits outside reset]

/-! ### Exact PCM trains (R211) -/

section PcmMessages

variable {p : Desc}

theorem Desc.pulseOnes_nrz {n : Nat} (nrz : p.shortWidth = p.longWidth) (period : 1 ≤ p.longWidth.toNat) (some_ones : 1 ≤ n) :
    p.pulseOnes (n * p.longWidth.toNat) = (n, true) := by
  simp [Desc.pulseOnes, nrz, rnd_mul n _ period, some_ones]

theorem Desc.gapZeros_nrz (pulse n : Nat) (nrz : p.shortWidth = p.longWidth) (period : 1 ≤ p.longWidth.toNat) :
    p.gapZeros pulse (n * p.longWidth.toNat) = (n, true) := by
  simp [Desc.gapZeros, nrz, rnd_mul n _ period]

theorem Desc.pulseOnes_rz (rz : p.shortWidth ≠ p.longWidth) : p.pulseOnes p.shortWidth.toNat = (1, true) := by
  simp [Desc.pulseOnes, rz]

theorem Desc.gapZeros_rz {pulse gap n : Nat} (rz : p.shortWidth ≠ p.longWidth) (period : 1 ≤ p.longWidth.toNat)
    (completes : pulse + gap = (n + 1) * p.longWidth.toNat) : p.gapZeros pulse gap = (n, true) := by
  have exact_sum : (pulse : Int) + gap - (n + 1) * p.longWidth.toNat = 0 := by
    rw [← Int.natCast_add, completes]
    push_cast
    ring
  simp [Desc.gapZeros, rz, completes, rnd_mul (n + 1) _ period, exact_sum]

/-- A train of exact pairs, one for each run, spells its ones and zeros. -/
theorem pcmOutputs_append {runs : List (Nat × Nat)} {pair : Nat × Nat → Nat × Nat} {ones : Nat × Nat → Nat}
    (exact_runs : ∀ r ∈ runs, p.InsideLimits (pair r).2 ∧ p.pulseOnes (pair r).1 = (ones r, true) ∧
      p.gapZeros (pair r).1 (pair r).2 = (r.2, true)) (rest : List (Nat × Nat)) :
    pcmOutputs p (runs.map pair ++ rest) =
      (runs.flatMap fun r => List.replicate (ones r) true ++ List.replicate r.2 false).map some ++ pcmOutputs p rest := by
  induction runs with
  | nil => rfl
  | cons r runs ih =>
    obtain ⟨⟨gapInside, resetInside⟩, pulse, gap⟩ := exact_runs r List.mem_cons_self
    have tail := ih fun r' hr' => exact_runs r' (List.mem_cons_of_mem _ hr')
    rw [List.map_cons, List.cons_append, pcmOutputs, pulse, gap, if_neg (by omega), if_neg (by omega), if_pos rfl, tail]
    simp [bitsIf]

/-- A last pulse before a gap beyond a limit is its ones, and at most the end of the row. -/
theorem pcmOutputs_last {pulse gap n : Nat} (valid : p.pulseOnes pulse = (n, true)) (outside : ¬ p.InsideLimits gap) :
    pcmOutputs p [(pulse, gap)] = (List.replicate n true).map some ∨
      pcmOutputs p [(pulse, gap)] = (List.replicate n true).map some ++ [none] := by
  by_cases reset : p.resetLimit.toNat < gap
  · exact .inl (by simp [pcmOutputs, valid, bitsIf, reset])
  · exact .inr (by simp [pcmOutputs, valid, bitsIf, reset, gapLimit_lt_of_not_insideLimits outside reset])

/-- What both forms of PCM share: exact runs give their row, and a last pulse before a boundary its ones. -/
theorem demodTrain_exact_pcm (coding : p.coding = 2#3) {runs : List (Nat × Nat)} {pair : Nat × Nat → Nat × Nat}
    {ones : Nat × Nat → Nat}
    (exact_runs : ∀ r ∈ runs, p.InsideLimits (pair r).2 ∧ p.pulseOnes (pair r).1 = (ones r, true) ∧
      p.gapZeros (pair r).1 (pair r).2 = (r.2, true)) :
    let bits := runs.flatMap fun r => List.replicate (ones r) true ++ List.replicate r.2 false
    (bits.length ≤ 4096 → (demodTrain p (runs.map pair)).buf = { rows := if bits = [] then [] else [bits], ovf := false }) ∧
      ∀ n pulse gap, p.pulseOnes pulse = (n, true) → ¬ p.InsideLimits gap →
        (bits ++ List.replicate n true).length ≤ 4096 → (demodTrain p (runs.map pair ++ [(pulse, gap)])).buf =
          { rows := if bits ++ List.replicate n true = [] then [] else [bits ++ List.replicate n true], ovf := false } := by
  refine ⟨fun fits => ?_, fun n pulse gap valid outside fits => ?_⟩
  · rw [demodTrain_pcm coding]
    exact stored_message fits (.inl (by simpa [pcmOutputs] using pcmOutputs_append exact_runs []))
  · rw [demodTrain_pcm coding, pcmOutputs_append exact_runs]
    refine stored_message fits ((pcmOutputs_last valid outside).imp ?_ ?_) <;> intro last
    · rw [last, List.map_append]
    · rw [last, List.map_append, List.append_assoc]

end PcmMessages

/-- Settles O45: exact widths pass their tests with the counts they were made from. -/
theorem pulseCodeTrainsDecode : Obligations.PulseCodeTrainsDecode := by
  refine fun p runs coding period => ⟨fun nrz inside => ?_, fun rz inside => ?_⟩
  · obtain ⟨whole, last⟩ := demodTrain_exact_pcm coding (runs := runs)
      (pair := fun r => (r.1 * p.longWidth.toNat, r.2 * p.longWidth.toNat)) (ones := Prod.fst)
      fun r hr => ⟨(inside r hr).2, Desc.pulseOnes_nrz nrz period (inside r hr).1, Desc.gapZeros_nrz _ _ nrz period⟩
    exact ⟨whole, fun n gap some_ones => last n _ gap (Desc.pulseOnes_nrz nrz period some_ones)⟩
  · obtain ⟨whole, last⟩ := demodTrain_exact_pcm coding (runs := runs)
      (pair := fun r => (p.shortWidth.toNat, (r.2 + 1) * p.longWidth.toNat - p.shortWidth.toNat)) (ones := fun _ => 1)
      fun r hr => ⟨(inside r hr).2, Desc.pulseOnes_rz rz, Desc.gapZeros_rz rz period (Nat.add_sub_cancel' (inside r hr).1)⟩
    exact ⟨whole, fun gap => last 1 _ gap (Desc.pulseOnes_rz rz)⟩

/-! ### Exact Manchester trains (R213, R214) -/

/-- From the cell `c`, the chips spell the bits and end between two cells: two chips make a bit, unequal halves in Manchester,
and in Differential Manchester (`diff`) a cell begins at another level than the last one ended on. -/
inductive Spells (diff : Bool) : Cell → List Bool → List Bool → Prop
  | nil (last : Option Bool) : Spells diff { half := none, last := last } [] []
  | first {last : Option Bool} {v : Bool} {chips bits : List Bool} (clock : diff = true → last ≠ some v)
      (rest : Spells diff { half := some v, last := last } chips bits) :
      Spells diff { half := none, last := last } (v :: chips) bits
  | second {last : Option Bool} {h v : Bool} {chips bits : List Bool} (halves : diff = false → h ≠ v)
      (rest : Spells diff { half := none, last := some v } chips bits) :
      Spells diff { half := some h, last := last } (v :: chips) ((if diff then h == v else v) :: bits)

theorem spells_menc (bits : List Bool) : ∀ last, Spells false { half := none, last := last } (menc bits) bits := by
  induction bits with
  | nil => exact fun last => .nil last
  | cons v vs ih => exact fun _ => .first nofun (.second (fun _ => Bool.not_ne_self v) (ih _))

theorem spells_dmenc (bits : List Bool) : ∀ (lv : Bool) (last : Option Bool), (last = none ∨ last = some lv) →
    Spells true { half := none, last := last } (dmenc lv bits) bits := by
  induction bits with
  | nil => exact fun _ last _ => .nil last
  | cons v vs ih =>
    intro lv last known
    have value : ((!lv) == if v then !lv else !!lv) = v := by cases v <;> cases lv <;> rfl
    have clock : last ≠ some (!lv) := by rcases known with rfl | rfl <;> simp
    refine .first (fun _ => clock) ?_
    have cell := Spells.second (diff := true) (last := last) (h := !lv) nofun (ih (if v then !lv else !!lv) _ (.inr rfl))
    rwa [if_pos rfl, value] at cell

section Spelling

variable {p : Desc} {diff v : Bool} {c : Cell} {chips bits : List Bool}

/-- A run of chips out of a code gives the bits it completes and leaves the rest of the code. -/
theorem Spells.run (n : Nat) : ∀ {c : Cell} {bits : List Bool}, Spells diff c (List.replicate n v ++ chips) bits →
    ∃ out rest c', bits = out ++ rest ∧ cellOutputs diff v n c = (out.map some, some c') ∧ Spells diff c' chips rest := by
  induction n with
  | zero => exact fun {c bits} spelled => ⟨[], bits, c, rfl, rfl, spelled⟩
  | succ n ih =>
    intro c bits spelled
    rw [List.replicate_succ, List.cons_append] at spelled
    cases spelled with
    | @first last _ _ _ clock rest =>
      obtain ⟨out, bits', c', rfl, outputs, left⟩ := ih rest
      have opens : (diff && last == some v) = false := by simpa using clock
      exact ⟨out, bits', c', rfl, by rw [cellOutputs]; simp [opens, outputs], left⟩
    | @second last h _ _ bits₀ halves rest =>
      obtain ⟨out, bits', c', rfl, outputs, left⟩ := ih rest
      have differ : (!diff && h == v) = false := by simpa using halves
      refine ⟨_ :: out, bits', c', rfl, ?_, left⟩
      rw [cellOutputs]
      simp [differ, outputs]

theorem Desc.runLength_mul {n : Nat} (chip : 1 ≤ p.shortWidth.toNat) (short_run : n = 1 ∨ n = 2) :
    p.runLength (n * p.shortWidth.toNat) = some n := by
  rcases short_run with rfl | rfl <;> simp only [Desc.runLength, rnd_mul _ _ chip] <;> simp

/-- Exact runs out of a code give the bits they complete and leave the rest of the code. -/
theorem Spells.chipOutputs_append {runs : List (Nat × Nat)} (chip : 1 ≤ p.shortWidth.toNat)
    (exact_runs : ∀ r ∈ runs, (r.1 = 1 ∨ r.1 = 2) ∧ (r.2 = 1 ∨ r.2 = 2) ∧ p.InsideLimits (r.2 * p.shortWidth.toNat)) :
    ∀ {c : Cell} {bits : List Bool}, Spells diff c (runChips runs ++ chips) bits →
      ∃ out rest c', bits = out ++ rest ∧ Spells diff c' chips rest ∧ ∀ train,
        chipOutputs p diff (runs.map (fun r => (r.1 * p.shortWidth.toNat, r.2 * p.shortWidth.toNat)) ++ train) c =
          out.map some ++ chipOutputs p diff train c' := by
  induction runs with
  | nil => exact fun {c bits} spelled => ⟨[], bits, c, rfl, spelled, fun _ => rfl⟩
  | cons r runs ih =>
    intro c bits spelled
    obtain ⟨pulse, gap, gapInside, resetInside⟩ := exact_runs r List.mem_cons_self
    have split : runChips (r :: runs) ++ chips =
        List.replicate r.1 true ++ (List.replicate r.2 false ++ (runChips runs ++ chips)) := by simp [runChips]
    rw [split] at spelled
    obtain ⟨high, bits₁, c₁, rfl, highOutputs, spelled₁⟩ := spelled.run
    obtain ⟨low, bits₂, c₂, rfl, lowOutputs, spelled₂⟩ := spelled₁.run
    obtain ⟨out, rest, c', rfl, left, outputs⟩ := ih (fun r' hr' => exact_runs r' (List.mem_cons_of_mem _ hr')) spelled₂
    refine ⟨high ++ (low ++ out), rest, c', by simp, left, fun train => ?_⟩
    rw [List.map_cons, List.cons_append, chipOutputs, Desc.runLength_mul chip pulse, Desc.runLength_mul chip gap,
      if_neg (by omega), if_neg (by omega)]
    simp only [runOutputs, highOutputs, lowOutputs, Option.getD_some, outputs, List.map_append, List.append_assoc]

/-- After a chip there is no half-bit open, or one of that chip's level. -/
theorem half_of_cellOutputs (n : Nat) : ∀ {c c' : Cell}, (cellOutputs diff v (n + 1) c).2 = some c' →
    c'.half = none ∨ c'.half = some v := by
  induction n with
  | zero =>
    rintro ⟨_ | h, last⟩ c' ended
    · simp only [cellOutputs] at ended
      split at ended <;> cases ended
      exact .inr rfl
    · simp only [cellOutputs] at ended
      split at ended <;> cases ended
      exact .inl rfl
  | succ n ih =>
    rintro ⟨_ | h, last⟩ c' ended
    · rw [cellOutputs] at ended
      simp only at ended
      split at ended
      next clash => cases ended
      next opens => exact ih ended
    · rw [cellOutputs] at ended
      simp only at ended
      split at ended
      next equal => cases ended
      next differ => exact ih ended

/-- A code that has ended, or whose last low chip is part of the silence, is closed with the bits it still spells. -/
theorem Spells.closing_eq (spelled : Spells diff c chips bits) (half : c.half = none ∨ c.half = some true)
    (silence : chips = [] ∨ chips = [false]) : closing (some c) = bits.map some := by
  rcases silence with rfl | rfl
  · cases spelled
    rfl
  · cases spelled with
    | first clock rest => cases rest
    | second halves rest =>
      cases rest
      obtain rfl := (Option.some.inj (half.resolve_left nofun))
      cases diff <;> rfl

/-- Both codings: a train that spells the code of a message leaves it. -/
theorem demodTrain_exact_manchester {runs : List (Nat × Nat)} {code : List Bool} (chip : 1 ≤ p.shortWidth.toNat)
    (fits : bits.length ≤ 4096)
    (exact_runs : ∀ r ∈ runs, (r.1 = 1 ∨ r.1 = 2) ∧ (r.2 = 1 ∨ r.2 = 2) ∧ p.InsideLimits (r.2 * p.shortWidth.toNat))
    (coding : p.coding = if diff then 4#3 else 3#3) (spelled : Spells diff .new code bits) :
    let train := runs.map fun r => (r.1 * p.shortWidth.toNat, r.2 * p.shortWidth.toNat)
    let message : BitBuf := { rows := if bits = [] then [] else [bits], ovf := false }
    (runChips runs = code → (demodTrain p train).buf = message) ∧
      ∀ n gap, (n = 1 ∨ n = 2) → ¬ p.InsideLimits gap →
        (runChips runs ++ List.replicate n true = code ∨ runChips runs ++ List.replicate n true ++ [false] = code) →
        (demodTrain p (train ++ [(n * p.shortWidth.toNat, gap)])).buf = message := by
  refine ⟨?_, fun n gap last_run outside whole => ?_⟩
  · rintro rfl
    rw [← List.append_nil (runChips runs)] at spelled
    obtain ⟨out, rest, c, rfl, left, outputs⟩ := spelled.chipOutputs_append chip exact_runs
    rw [demodTrain_manchester coding]
    refine stored_message fits (.inl ?_)
    cases left
    simpa [chipOutputs, closing] using outputs []
  · obtain ⟨silence, end_of_code, rfl⟩ : ∃ silence, (silence = [] ∨ silence = [false]) ∧
        code = runChips runs ++ (List.replicate n true ++ silence) := by
      rcases whole with rfl | rfl
      · exact ⟨[], .inl rfl, by simp⟩
      · exact ⟨[false], .inr rfl, by simp⟩
    obtain ⟨out, rest, c, rfl, left, outputs⟩ := spelled.chipOutputs_append chip exact_runs
    obtain ⟨high, last, c', rfl, highOutputs, left⟩ := left.run
    have half : c'.half = none ∨ c'.half = some true := by
      obtain ⟨m, rfl⟩ : ∃ m, n = m + 1 := ⟨n - 1, by omega⟩
      exact half_of_cellOutputs m (by rw [highOutputs])
    rw [demodTrain_manchester coding]
    refine stored_message fits ?_
    have train := outputs [(n * p.shortWidth.toNat, gap)]
    simp only [chipOutputs, Desc.runLength_mul chip last_run, runOutputs, highOutputs, left.closing_eq half end_of_code]
      at train
    by_cases reset : p.resetLimit.toNat < gap
    · exact .inl (by simpa [reset] using train)
    · refine .inr ?_
      simpa [reset, gapLimit_lt_of_not_insideLimits outside reset, closing] using train

end Spelling

/-- Settles O46: both codes are spelled from a new cell. -/
theorem manchesterPulseTrainsDecode : Obligations.ManchesterPulseTrainsDecode :=
  fun _ bits _ chip fits exact_runs =>
    ⟨fun coding => demodTrain_exact_manchester (diff := false) chip fits exact_runs coding (spells_menc bits _),
      fun coding => demodTrain_exact_manchester (diff := true) chip fits exact_runs coding
        (spells_dmenc bits false _ (.inl rfl))⟩

/-! ## The command (R217) -/

theorem State.slot_of_getElem? {s : State} {i : Nat} {p : Desc} (registered : s.reg[i]? = some p) : s.slot i = p := by
  rw [State.slot, List.getD_eq_getElem?_getD, registered]
  rfl

/-- Entry `i` of `PT` is two words, the pulse first (10_state.md R43). -/
theorem State.train_getElem? (s : State) {i : Nat} (hi : i < s.ptLen.toNat) :
    s.train[i]? = some (s.wordAt (0x2000 + 8 * i), s.wordAt (0x2000 + 8 * i + 4)) := by
  rw [State.train, List.getElem?_map, List.getElem?_range hi]
  simp only [Option.map_some, State.pulse, State.toNat_leWord_bytesAt]

/-- Settles O39: the checks in their order, then one demodulation. -/
theorem demodRunsOneProfile : Obligations.DemodRunsOneProfile := by
  refine ⟨rfl, fun s => ⟨fun busy => ?_, fun locked free bad => ?_, fun locked free short p registered => ?_, ?_,
    fun i hi => s.train_getElem? hi⟩⟩
  · rw [exec, execDemod, if_pos busy]
    rfl
  · have ready : ¬ (s.rst ≠ .locked ∨ s.dst = .waitDecode) := by simp [locked, free]
    rw [exec, execDemod, if_neg ready, if_pos bad]
    rfl
  · have ready : ¬ (s.rst ≠ .locked ∨ s.dst = .waitDecode) := by simp [locked, free]
    obtain ⟨present, -⟩ := List.getElem?_eq_some_iff.1 registered
    have operands : ¬ (s.reg.length ≤ s.arg0.toNat ∨ Config.ptCap < s.ptLen.toNat) :=
      not_or.2 ⟨Nat.not_le.2 present, Nat.not_lt.2 short⟩
    rw [exec, execDemod, if_neg ready, if_neg operands, State.demodulate, State.slot_of_getElem? registered]
    rfl
  · rw [State.train, List.length_map, List.length_range]

end Sys2Proof.Machine

/-!
PROOFS of the family 45_registry_dispatch.md: the registry commands, dispatch order, the dispatcher's commands and the transitions
of `DST`, and what a dispatch depends on.
-/

namespace Sys2Proof.Machine

/-! ## The registry commands (45_registry_dispatch.md R242, R245 to R247) -/

section Registry

variable {s : State}

theorem exec_regInit_wait (wait : s.dst = .waitDecode) : exec .regInit s = .next (s.refuse .state) := by
  rw [exec, execRegInit, if_pos wait]

theorem exec_regInit_free (free : s.dst ≠ .waitDecode) : exec .regInit s = .next (s.emptyRegistry .opened).accept := by
  rw [exec, execRegInit, if_neg free]

theorem exec_regTeardown_wait (wait : s.dst = .waitDecode) : exec .regTeardown s = .next (s.refuse .state) := by
  rw [exec, execRegTeardown, if_pos wait]

theorem exec_regTeardown_free (free : s.dst ≠ .waitDecode) :
    exec .regTeardown s = .next (s.emptyRegistry .uninit).accept := by
  rw [exec, execRegTeardown, if_neg free]

theorem exec_regLock_closed (closed : s.rst ≠ .opened) : exec .regLock s = .next (s.refuse .state) := by
  rw [exec, execRegLock, if_pos closed]

theorem exec_regLock_opened (opened : s.rst = .opened) :
    exec .regLock s = .next (State.accept { s with rst := .locked, res0 := s.nreg }) := by
  rw [exec, execRegLock, if_neg (not_not.2 opened)]

theorem exec_regAdd_closed (closed : s.rst ≠ .opened) : exec .regAdd s = .next (s.refuse .state) := by
  rw [exec, execRegAdd, if_pos closed]

theorem exec_regAdd_invalid (opened : s.rst = .opened) (invalid : s.desc.valid = false) :
    exec .regAdd s = .next (s.refuse .operand) := by
  rw [exec, execRegAdd, if_neg (not_not.2 opened), if_pos invalid]

theorem exec_regAdd_full (opened : s.rst = .opened) (valid : s.desc.valid = true) (full : s.reg.length = 256) :
    exec .regAdd s = .next (s.refuse .full) := by
  rw [exec, execRegAdd, if_neg (not_not.2 opened), if_neg (by simp [valid]), if_pos full]

theorem exec_regAdd_room (opened : s.rst = .opened) (valid : s.desc.valid = true) (room : s.reg.length ≠ 256) :
    exec .regAdd s = .next (State.accept { s with reg := s.reg ++ [s.desc], res0 := s.nreg }) := by
  rw [exec, execRegAdd, if_neg (not_not.2 opened), if_neg (by simp [valid]), if_neg room]

end Registry

/-- Settles O47: each command by its one check. -/
theorem registryLifecycleCommands : Obligations.RegistryLifecycleCommands :=
  ⟨⟨rfl, rfl, rfl⟩, fun _ =>
    ⟨fun wait => ⟨exec_regInit_wait wait, exec_regTeardown_wait wait⟩,
      fun free => ⟨exec_regInit_free free, exec_regTeardown_free free⟩, exec_regLock_closed, exec_regLock_opened⟩⟩

/-- `CODING` as a number (10_state.md R46). -/
theorem Desc.toNat_coding (d : Desc) : d.coding.toNat = d.kind.toNat % 8 := by
  simp [Desc.coding, BitVec.extractLsb'_toNat]

/-- The validation of R245 on numbers. -/
theorem Desc.valid_iff (d : Desc) :
    d.valid = true ↔ d.kind &&& 0xFFFFFEE8#32 = 0 ∧ d.kind.toNat % 8 ≤ 4 ∧ 1 ≤ d.shortWidth.toNat ∧
      (3 ≤ d.kind.toNat % 8 ∨ 1 ≤ d.longWidth.toNat) ∧ d.preambleBits.toNat ≤ 64 ∧ d.reserved = 0 := by
  simp [Desc.valid, BitVec.le_def, d.toNat_coding]

/-- Settles O48: the three refusals in the order of the checks, then the new slot. -/
theorem regAddRegistersValidDescriptor : Obligations.RegAddRegistersValidDescriptor := by
  refine ⟨rfl, fun s => ⟨exec_regAdd_closed, fun opened invalid => ?_, fun opened valid full => ?_,
    fun opened valid room => ?_⟩⟩
  · exact exec_regAdd_invalid opened (Bool.eq_false_iff.2 (mt s.desc.valid_iff.1 invalid))
  · exact exec_regAdd_full opened (s.desc.valid_iff.2 valid) full
  · exact exec_regAdd_room opened (s.desc.valid_iff.2 valid) room

/-! ## Dispatch order, compatibility and eligibility (R255 to R257) -/

/-- Settles O49: the search answers a least slot or that there is none, and two least slots are the same. -/
theorem firstSlotIsLeastInDispatchOrder : Obligations.FirstSlotIsLeastInDispatchOrder := by
  intro s x
  rcases s.firstSlot_cases x with ⟨found, none⟩ | ⟨d, found, hd, xd, least⟩ <;> rw [found]
  · exact ⟨fun c => ⟨nofun, fun ⟨hc, xc, _⟩ => absurd (none c hc) (by simp [xc])⟩, fun _ => none, fun _ => rfl⟩
  · refine ⟨fun c => ⟨?_, fun ⟨hc, xc, first⟩ => ?_⟩, nofun, fun none => absurd (none d hd) (by simp [xd])⟩
    · rintro ⟨⟩
      exact ⟨hd, xd, least⟩
    · exact congrArg some (s.noLater_antisymm d c (least c hc xc) (first d hd xd))

/-- Settles O50: both tests written out, and the candidate first among the eligible slots that it is compatible with. -/
theorem candidateIsItsOwnFirstDecoder : Obligations.CandidateIsItsOwnFirstDecoder := by
  refine ⟨fun c d => ?_, State.eligible_iff, fun s c first => ?_⟩
  · have coding : c.coding = d.coding ↔ c.kind.toNat % 8 = d.kind.toNat % 8 := by
      rw [← BitVec.toNat_inj, c.toNat_coding, d.toNat_coding]
    simp [compatible, Desc.carrier, coding, absDiff_eq_natAbs]
  · have own := s.firstDecoder_tryCandidate c first
    exact ⟨(State.firstDecoder_congr s (s.tryCandidate c) c rfl rfl).trans own, own⟩

/-! ## The dispatcher's commands (R260, R263, R265) -/

section Commands

variable {s : State}

theorem exec_dspStart_busy (busy : s.rst ≠ .locked ∨ s.dst = .waitDecode) :
    exec .dspStart s = .next (s.refuse .state) := by
  rw [exec, execDspStart, if_pos busy]

theorem exec_dspStart_long (locked : s.rst = .locked) (free : s.dst ≠ .waitDecode) (long : 1024 < s.ptLen.toNat) :
    exec .dspStart s = .next (s.refuse .operand) := by
  rw [exec, execDspStart, if_neg (by simp [locked, free]), if_pos long]

theorem exec_dspStart_ready (locked : s.rst = .locked) (free : s.dst ≠ .waitDecode) (short : s.ptLen.toNat ≤ 1024) :
    exec .dspStart s = afterSelect s.clearDispatch.selectCandidate := by
  rw [exec, execDspStart, if_neg (by simp [locked, free]), if_neg (Nat.not_lt.2 short)]

theorem exec_dspReturn_free (free : s.dst ≠ .waitDecode) : exec .dspReturn s = .next (s.refuse .state) := by
  rw [exec, execDspReturn, if_pos free]

/-- The state a return leaves to the selection that follows it (R263). -/
def State.returned (s : State) : State := s.unflip.recordOutcome (normalise s.arg0)

theorem exec_dspReturn_success (wait : s.dst = .waitDecode) (success : 1 ≤ (normalise s.arg0).toInt) :
    exec .dspReturn s = afterSelect (s.returned.recordSuccess (normalise s.arg0)).selectCandidate := by
  simp only [exec, execDspReturn, if_neg (not_not.2 wait), if_pos success, State.returned]

theorem exec_dspReturn_failure (wait : s.dst = .waitDecode) (failure : (normalise s.arg0).toInt < 1) :
    exec .dspReturn s = afterSelect s.returned.selectDecoder := by
  simp only [exec, execDspReturn, if_neg (not_not.2 wait), if_neg (Int.not_le.2 failure), State.returned]

theorem exec_dspAck_other (other : s.dst ≠ .done) : exec .dspAck s = .next (s.refuse .state) := by
  rw [exec, execDspAck, if_pos other]

theorem exec_dspAck_done (done : s.dst = .done) : exec .dspAck s = .next (State.accept { s with dst := .idle }) := by
  rw [exec, execDspAck, if_neg (not_not.2 done)]

end Commands

/-- Settles O53: `DSP_ACK` by its one check. -/
theorem dspAckReturnsToIdle : Obligations.DspAckReturnsToIdle :=
  ⟨rfl, fun _ => ⟨exec_dspAck_other, exec_dspAck_done⟩⟩

/-- Settles O51: the checks in their order, then a selection, which ends in every registry of at most `REG_SLOTS` slots. -/
theorem dspStartSelectsFirstDecoder : Obligations.DspStartSelectsFirstDecoder := by
  refine ⟨rfl, fun s => ⟨exec_dspStart_busy, exec_dspStart_long, fun locked free short slots => ?_⟩⟩
  obtain ⟨u, answer, selects⟩ := s.clearDispatch.selectCandidate_spec slots
  refine ⟨u, selects, ?_⟩
  rw [exec_dspStart_ready locked free short, answer]
  rfl

/-- Settles O52: a success goes on with the candidate's other decoders passed over, any other outcome with the next decoder. -/
theorem dspReturnRecordsAndContinues : Obligations.DspReturnRecordsAndContinues := by
  refine ⟨rfl, fun s => ⟨exec_dspReturn_free, fun wait slots success => ?_, fun wait slots failure => ?_⟩⟩
  · obtain ⟨u, answer, selects⟩ := (s.returned.recordSuccess (normalise s.arg0)).selectCandidate_spec slots
    refine ⟨_, u, (s.passedOver_iff _ _).2 rfl, selects, ?_⟩
    rw [exec_dspReturn_success wait success, answer]
    rfl
  · obtain ⟨u, answer, selects⟩ := s.returned.selectDecoder_spec slots
    refine ⟨u, selects, ?_⟩
    rw [exec_dspReturn_failure wait failure, answer]
    rfl

end Sys2Proof.Machine

namespace Sys2Proof.Machine

/-! ## Transitions of `DST` (R266) -/

theorem RefuseCode.code_ne_zero (c : RefuseCode) : c.code ≠ 0 := by cases c <;> decide

/-- A refused command does not leave `STATUS` 0. -/
theorem State.refuse_not_accepted (s : State) (c : RefuseCode) : (s.refuse c).status ≠ 0 := c.code_ne_zero

/-- A selection ends with a decoder awaited, or in `DONE` with no eligible slot left (R258). -/
theorem SelectsCandidate.ends {s u : State} (sel : SelectsCandidate s u) :
    u.dst = .waitDecode ∨ u.dst = .done ∧ ∀ i, u.eligible i = false := by
  induction sel with
  | finish s found =>
    refine .inr ⟨rfl, fun i => ?_⟩
    rcases Nat.lt_or_ge i s.reg.length with registered | beyond
    · exact s.firstSlot_none _ found i registered
    · simp [State.eligible, beyond]
  | pass _ _ _ _ _ _ _ _ ih => exact ih
  | pick => exact .inl rfl

theorem SelectsDecoder.ends {s u : State} (sel : SelectsDecoder s u) :
    u.dst = .waitDecode ∨ u.dst = .done ∧ ∀ i, u.eligible i = false := by
  rcases sel with ⟨d, -, rfl⟩ | ⟨-, sel⟩
  · exact .inl rfl
  · exact sel.ends

section Transitions

variable {s t : State}

theorem dspStart_transition (h : exec .dspStart s = .next t) (accepted : t.status = 0) :
    s.dst ≠ .waitDecode ∧ (t.dst = .waitDecode ∨ t.dst = .done ∧ ∀ i, t.eligible i = false) := by
  rcases execDspStart_cases s t h with rfl | rfl | ⟨-, free, -, u, sel, rfl⟩
  · exact absurd accepted (s.refuse_not_accepted _)
  · exact absurd accepted (s.refuse_not_accepted _)
  · exact ⟨free, sel.ends⟩

theorem dspReturn_transition (h : exec .dspReturn s = .next t) (accepted : t.status = 0) :
    s.dst = .waitDecode ∧ (t.dst = .waitDecode ∨ t.dst = .done ∧ ∀ i, t.eligible i = false) := by
  by_cases wait : s.dst = .waitDecode
  · rcases execDspReturn_cases s t wait h with ⟨-, u, sel, rfl⟩ | ⟨-, u, sel, rfl⟩ <;> exact ⟨wait, sel.ends⟩
  · cases (exec_dspReturn_free wait).symm.trans h
    exact absurd accepted (s.refuse_not_accepted _)

theorem dspAck_transition (h : exec .dspAck s = .next t) (accepted : t.status = 0) : s.dst = .done ∧ t.dst = .idle := by
  by_cases done : s.dst = .done
  · cases (exec_dspAck_done done).symm.trans h
    exact ⟨done, rfl⟩
  · cases (exec_dspAck_other done).symm.trans h
    exact absurd accepted (s.refuse_not_accepted _)

/-- The step that serves the word of a command runs it in a state with the same `DST`. -/
theorem step_of_head_command {i : Instr} (head : s.requests.head? = some (.write .four 0x10#15 (encode i)))
    (h : step s = .next t) : ∃ s', s'.dst = s.dst ∧ exec i s' = .next t := by
  obtain ⟨rest, pending⟩ := List.head?_eq_some_iff.1 head
  rw [step_issue s _ rest pending, State.issue_of_ok _ (decode_encode i)] at h
  refine ⟨_, ?_, h⟩
  rfl

@[simp] theorem State.writePage_dst (s : State) (v : Word) (r : PageReg) : (s.writePage v r).dst = s.dst := by
  cases r <;> rfl

/-- A command that changes `DST` is one of the three of R266, and it is accepted. -/
theorem exec_changes_dst {i : Instr} (h : exec i s = .next t) (change : t.dst ≠ s.dst) :
    t.status = 0 ∧ (i = .dspStart ∨ i = .dspReturn ∨ i = .dspAck) := by
  refine ⟨?_, by simpa using (exec_effect i s t h).dst change⟩
  rcases exec_refused_or_accepted i s t h with ⟨c, rfl⟩ | accepted
  · exact absurd rfl change
  · exact accepted

/-- A step that changes `DST` serves a `RESET` or issues the word of one of the three commands of R266. -/
theorem step_changes_dst (h : step s = .next t) (change : t.dst ≠ s.dst) :
    s.requests.head? = some .reset ∨ ∃ i, s.requests.head? = some (.write .four 0x10#15 (encode i)) ∧ t.status = 0 ∧
      (i = .dspStart ∨ i = .dspReturn ∨ i = .dspAck) := by
  rcases step_cases s t h with ⟨rfl, -⟩ | ⟨rest, r, -, rfl⟩ | ⟨rest, pending, -⟩ | ⟨rest, size, a, v, pending, written⟩
  · exact absurd rfl change
  · exact absurd rfl change
  · exact .inl (by rw [pending]; rfl)
  · rcases written with rfl | ⟨r, -, rfl, -⟩ | ⟨-, -, rfl⟩ | ⟨rfl, rfl, issued⟩
    · exact absurd rfl change
    · exact absurd (State.writePage_dst _ v r) change
    · exact absurd rfl change
    · rcases State.issue_cases _ t v issued with ⟨i, decoded, run⟩ | ⟨c, -, rfl⟩
      · refine .inr ⟨i, ?_, exec_changes_dst run change⟩
        rw [pending, encode_of_decode decoded]
        rfl
      · exact absurd rfl change

end Transitions

/-- Settles O17: the rows of R266 by the command each is of, and no other step changes `DST`. -/
theorem dispatcherStateTransitions : Obligations.DispatcherStateTransitions := by
  intro s t h issues
  refine ⟨fun reset => ?_, fun ⟨head, accepted⟩ => ?_, fun ⟨head, accepted⟩ => ?_, fun ⟨head, accepted⟩ => ?_,
    fun change => ?_⟩
  · obtain ⟨rest, pending⟩ := List.head?_eq_some_iff.1 reset
    cases (step_reset s rest pending).symm.trans h
    rfl
  · obtain ⟨s', same, run⟩ := step_of_head_command (i := .dspStart) head h
    exact same ▸ dspStart_transition run accepted
  · obtain ⟨s', same, run⟩ := step_of_head_command (i := .dspReturn) head h
    exact same ▸ dspReturn_transition run accepted
  · obtain ⟨s', same, run⟩ := step_of_head_command (i := .dspAck) head h
    exact same ▸ dspAck_transition run accepted
  · rcases step_changes_dst h change with reset | ⟨i, head, accepted, rfl | rfl | rfl⟩
    · exact .inl reset
    · exact .inr (.inl ⟨head, accepted⟩)
    · exact .inr (.inr (.inl ⟨head, accepted⟩))
    · exact .inr (.inr (.inr ⟨head, accepted⟩))

/-! ## The length of a dispatch (R267) -/

/-- An executed return is one attempt, whatever selection follows it (R263). -/
theorem natt_of_dspReturn {s t : State} (wait : s.dst = .waitDecode) (h : exec .dspReturn s = .next t) :
    t.natt = s.natt + 1 ∧ t.reg = s.reg := by
  rcases execDspReturn_cases s t wait h with ⟨-, u, sel, rfl⟩ | ⟨-, u, sel, rfl⟩ <;>
    exact ⟨(congrArg State.natt sel.frame :), (congrArg State.reg sel.frame :)⟩

/-- Settles O57: attempts are bounded by the slots dealt with, and an awaited decoder is one slot more. -/
theorem attemptsNeverExceedSlots : Obligations.AttemptsNeverExceedSlots := by
  intro s t inv wait h
  obtain ⟨natt, reg⟩ := natt_of_dspReturn wait h
  have one : t.natt.toNat = s.natt.toNat + 1 := by rw [natt, toNat_succ_of_le s.natt inv.counts.2]
  have before := inv.waitCount wait
  have slots := s.triedCount_le
  refine ⟨one, by rw [reg]; omega, fun again => ?_⟩
  have after := ((exec_effect _ s t h).keeps_inv inv).waitCount again
  exact Nat.lt_of_lt_of_le after t.triedCount_le

/-! ## What a dispatch depends on (R262, R267) -/

/-- The state a selection reads: registry, pulse train and `TRIED` (R258, R259). -/
structure State.SameSearch (s s' : State) : Prop where
  reg : s.reg = s'.reg
  rst : s.rst = s'.rst
  ptLen : s.ptLen = s'.ptLen
  train : s.train = s'.train
  tried : s.tried = s'.tried

section Lockstep

variable {s s' : State}

theorem SameDispatch.search (same : SameDispatch s s') : s.SameSearch s' :=
  have ⟨reg, rst, ptLen, train, _, tried, _⟩ := same
  ⟨reg, rst, ptLen, train, tried⟩

theorem SameDispatch.dst (same : SameDispatch s s') : s.dst = s'.dst :=
  have ⟨_, _, _, _, dst, _, _⟩ := same
  dst

theorem State.SameSearch.slot (same : s.SameSearch s') (i : Nat) : s.slot i = s'.slot i := by
  rw [State.slot, State.slot, same.reg]

theorem State.SameSearch.tryCandidate (same : s.SameSearch s') (c : Nat) :
    (s.tryCandidate c).SameSearch (s'.tryCandidate c) := { same with }

/-- The buffer of a candidate is a function of its profile and the train (R205). -/
theorem State.SameSearch.tryCandidate_bb0 (same : s.SameSearch s') (c : Nat) :
    (s.tryCandidate c).bb0 = (s'.tryCandidate c).bb0 := by
  show (demodTrain (s.slot c) s.train).buf = (demodTrain (s'.slot c) s'.train).buf
  rw [same.slot c, same.train]

theorem State.SameSearch.markTried (same : s.SameSearch s') {x x' : Nat → Bool} (hx : x = x') :
    (s.markTried x).SameSearch (s'.markTried x') :=
  { same with
    tried := by
      show List.foldl _ s.tried _ = List.foldl _ s'.tried _
      rw [same.reg, same.tried, hx] }

theorem State.SameSearch.done (same : s.SameSearch s') : SameDispatch { s with dst := .done } { s' with dst := .done } :=
  ⟨same.reg, same.rst, same.ptLen, same.train, rfl, same.tried, nofun⟩

/-- The same decoder is invoked on the same buffer. -/
theorem State.SameSearch.invoke (same : s.SameSearch s') (d : Nat) (cand : s.cand = s'.cand) (bb0 : s.bb0 = s'.bb0) :
    SameDispatch (s.invoke d) (s'.invoke d) :=
  ⟨same.reg, same.rst, same.ptLen, same.train, rfl, congrArg (setTried · d) same.tried, fun _ => ⟨cand, rfl, bb0⟩⟩

/-- `SelectCandidate()` runs in lockstep (R258). -/
theorem State.SameSearch.selectCandidate (n : Nat) : ∀ {s s' : State}, s.SameSearch s' →
    Option.Rel SameDispatch (Machine.selectCandidate n s) (Machine.selectCandidate n s') := by
  induction n with
  | zero => exact fun _ => .none
  | succ n ih =>
    intro s s' same
    have first := State.firstSlot_congr s s' _ _ same.reg (State.eligible_congr s s' same.reg same.tried)
    rw [Machine.selectCandidate, Machine.selectCandidate, ← first]
    cases s.firstSlot s.eligible with
    | none => exact .some same.done
    | some c =>
      have tried := same.tryCandidate c
      have bb0 := same.tryCandidate_bb0 c
      simp only [← bb0, ← State.firstDecoder_congr _ _ c tried.reg tried.tried]
      split
      · refine ih (tried.markTried (funext fun d => ?_))
        rw [State.eligible_congr _ _ tried.reg tried.tried, tried.slot c, tried.slot d]
      · split
        · exact ih tried
        · exact .some (tried.invoke _ rfl bb0)

/-- `SelectCandidate()` with the fuel of the registry runs in lockstep. -/
theorem State.SameSearch.selectCandidate_fuel (same : s.SameSearch s') :
    Option.Rel SameDispatch s.selectCandidate s'.selectCandidate := by
  rw [State.selectCandidate, State.selectCandidate, ← same.reg]
  exact State.SameSearch.selectCandidate _ same

/-- `SelectDecoder()` runs in lockstep from the same candidate's buffer (R259). -/
theorem State.SameSearch.selectDecoder (same : s.SameSearch s') (cand : s.cand = s'.cand) (bb0 : s.bb0 = s'.bb0) :
    Option.Rel SameDispatch s.selectDecoder s'.selectDecoder := by
  rw [State.selectDecoder, State.selectDecoder, ← cand, ← State.firstDecoder_congr s s' _ same.reg same.tried]
  cases s.firstDecoder s.cand.toNat with
  | none => exact same.selectCandidate_fuel
  | some d => exact .some (same.invoke d cand bb0)

/-- Selections that end in the same position end their commands in it. -/
theorem afterSelect_lockstep {o o' : Option State} (h : Option.Rel SameDispatch o o') {t : State}
    (answer : afterSelect o = .next t) : ∃ t', afterSelect o' = .next t' ∧ SameDispatch t t' := by
  obtain ⟨u, rfl, rfl⟩ := afterSelect_next o t answer
  cases h with
  | some same => exact ⟨_, rfl, same⟩

theorem State.SameSearch.clearDispatch (reg : s.reg = s'.reg) (rst : s.rst = s'.rst) (ptLen : s.ptLen = s'.ptLen)
    (train : s.train = s'.train) : s.clearDispatch.SameSearch s'.clearDispatch := ⟨reg, rst, ptLen, train, rfl⟩

/-- A return that is recorded in either state leaves the same search, candidate and buffer (R263). -/
theorem SameDispatch.returned (same : SameDispatch s s') (wait : s.dst = .waitDecode) :
    s.returned.SameSearch s'.returned ∧ s.returned.cand = s'.returned.cand ∧ s.returned.bb0 = s'.returned.bb0 :=
  have ⟨_, _, _, _, _, _, awaited⟩ := same
  have ⟨cand, _, bb0⟩ := awaited wait
  ⟨{ same.search with }, cand, bb0⟩

/-- A success passes over the same slots in either state (R263). -/
theorem State.SameSearch.recordSuccess (same : s.SameSearch s') (cand : s.cand = s'.cand) (v : Word) :
    (s.recordSuccess v).SameSearch (s'.recordSuccess v) := by
  have marked := same.markTried (x := fun d => compatible (s.slot s.cand.toNat) (s.slot d))
    (x' := fun d => compatible (s'.slot s'.cand.toNat) (s'.slot d))
    (funext fun d => by rw [cand, same.slot s'.cand.toNat, same.slot d])
  exact { marked with }

/-- Two states that agree on registry and train start the same dispatch (R267). -/
theorem dspStart_lockstep {t : State} (reg : s.reg = s'.reg) (rst : s.rst = s'.rst) (ptLen : s.ptLen = s'.ptLen)
    (train : s.train = s'.train) (locked : s.rst = .locked) (free : s.dst ≠ .waitDecode) (free' : s'.dst ≠ .waitDecode)
    (short : s.ptLen.toNat ≤ 1024) (h : exec .dspStart s = .next t) :
    ∃ t', exec .dspStart s' = .next t' ∧ SameDispatch t t' := by
  rw [exec_dspStart_ready locked free short] at h
  rw [exec_dspStart_ready (rst ▸ locked) free' (ptLen ▸ short)]
  exact afterSelect_lockstep (State.SameSearch.clearDispatch reg rst ptLen train).selectCandidate_fuel h

/-- Equal outcomes take the same position to the same position (R262, R267). -/
theorem dspReturn_lockstep {t : State} (same : SameDispatch s s') (outcome : s.arg0 = s'.arg0)
    (h : exec .dspReturn s = .next t) : ∃ t', exec .dspReturn s' = .next t' ∧ SameDispatch t t' := by
  have dst := same.dst
  by_cases wait : s.dst = .waitDecode
  · have wait' := dst.symm.trans wait
    obtain ⟨search, cand, bb0⟩ := same.returned wait
    rcases lt_or_ge (normalise s.arg0).toInt 1 with failure | success
    · rw [exec_dspReturn_failure wait failure] at h
      rw [exec_dspReturn_failure wait' (outcome ▸ failure)]
      exact afterSelect_lockstep (search.selectDecoder cand bb0) h
    · rw [exec_dspReturn_success wait success, outcome] at h
      rw [exec_dspReturn_success wait' (outcome ▸ success)]
      exact afterSelect_lockstep (search.recordSuccess cand _).selectCandidate_fuel h
  · cases (exec_dspReturn_free wait).symm.trans h
    exact ⟨_, exec_dspReturn_free (dst ▸ wait), same⟩

end Lockstep

/-! ### What an awaited dispatch lets HOST do (R261) -/

section Awaited

variable {s t : State}

/-- The train is a function of its length and the bytes of `PT` (10_state.md R43, R44). -/
theorem State.train_congr (ptLen : t.ptLen = s.ptLen) (bytes : ∀ a, 0x2000 ≤ a → t.byteAt a = s.byteAt a) :
    t.train = s.train := by
  have words (a n : Nat) (ha : 0x2000 ≤ a) : t.bytesAt a n = s.bytesAt a n :=
    List.map_congr_left fun j _ => bytes (a + j) (by omega)
  rw [State.train, State.train, ptLen]
  refine List.map_congr_left fun i _ => ?_
  rw [State.pulse, State.pulse, words _ 4 (by simp only [Config.ptBase]; omega),
    words _ 4 (by simp only [Config.ptBase]; omega)]

theorem SameDispatch.refl (s : State) : SameDispatch s s := ⟨rfl, rfl, rfl, rfl, rfl, rfl, fun _ => ⟨rfl, rfl, rfl⟩⟩

/-- A write to a register other than `PT_LEN` leaves the position. -/
theorem SameDispatch.writePage (s : State) (v : Word) {r : PageReg} (other : r ≠ .ptLen) :
    SameDispatch s (s.writePage v r) := by
  cases r with
  | ptLen => exact absurd rfl other
  | _ => exact .refl s

/-- An aligned store to `SCR` leaves the train, and so the position. -/
theorem SameDispatch.writeScratch (s : State) (size : Size) {a : Nat} (v : Word) (scr : 0x400 ≤ a ∧ a < 0x800)
    (aligned : a % size.bytes = 0) : SameDispatch s (s.writeBytesAt a (leBytes size.bytes v)) := by
  have inside : a + size.bytes ≤ 0x800 := by cases size <;> simp only [Size.bytes] at aligned ⊢ <;> omega
  have train : (s.writeBytesAt a (leBytes size.bytes v)).train = s.train :=
    State.train_congr rfl fun b hb =>
      s.byteAt_writeBytesAt_of_outside a b _ (.inr (by rw [length_leBytes]; omega))
  exact ⟨rfl, rfl, rfl, train.symm, rfl, rfl, fun _ => ⟨rfl, rfl, rfl⟩⟩

/-- Every command but `DSP_RETURN` leaves the position; `BB_INVERT` on `BB0` is undone by `FLIP` (R162). -/
theorem SameDispatch.exec {i : Instr} (wait : s.dst = .waitDecode) (locked : s.rst = .locked) (other : i ≠ .dspReturn)
    (h : Machine.exec i s = .next t) : SameDispatch s t := by
  obtain ⟨⟨dst, rst, reg, ptLen, cand, cur, tried, -⟩, inverted, kept⟩ :=
    awaitedDispatchIsProtected i s t wait locked h other
  have train : t.train = s.train := State.train_congr ptLen fun a ha => by
    by_contra changed
    have scr := ((exec_effect i s t h).byteAt a changed).1
    omega
  refine ⟨reg.symm, rst ▸ locked, ptLen.symm, train.symm, wait.trans dst.symm, tried.symm, fun _ =>
    ⟨cand.symm, cur.symm, ?_⟩⟩
  by_cases inverts : i = .bbInvert .bb0
  · obtain ⟨bb0, flip⟩ := inverted inverts
    rw [bb0, flip]
    cases s.flip <;> simp
  · obtain ⟨bb0, flip⟩ := kept inverts
    rw [bb0, flip]

/-- No step but one that issues `DSP_RETURN` or serves a `RESET` leaves the position (R261, R262). -/
theorem SameDispatch.step (wait : s.dst = .waitDecode) (locked : s.rst = .locked)
    (noReset : s.requests.head? ≠ some .reset) (noReturn : s.requests.head? ≠ some (.write .four 0x10#15 0x49#32))
    (h : Machine.step s = .next t) : SameDispatch s t := by
  rcases step_cases s t h with ⟨rfl, -⟩ | ⟨rest, r, -, rfl⟩ | ⟨rest, pending, -⟩ | ⟨rest, size, a, v, pending, written⟩
  · exact .refl t
  · exact .refl s
  · exact absurd (congrArg List.head? pending) noReset
  · rcases written with rfl | ⟨r, notFrozen, rfl, -⟩ | ⟨region, aligned, rfl⟩ | ⟨rfl, rfl, issued⟩
    · exact .refl s
    · exact .writePage { s with requests := rest, resp := .done } v fun frozen => notFrozen ⟨frozen, wait⟩
    · have scr : 0x400 ≤ a.toNat ∧ a.toNat < 0x800 := region.resolve_right fun ⟨_, _, free⟩ => free wait
      exact .writeScratch { s with requests := rest, resp := .done } size v scr aligned
    · rcases State.issue_cases _ t v issued with ⟨i, decoded, run⟩ | ⟨c, -, rfl⟩
      · have other : i ≠ .dspReturn := by
          rintro rfl
          rw [pending, ← encode_of_decode decoded] at noReturn
          exact noReturn rfl
        exact SameDispatch.exec (s := { s with requests := rest, resp := .done, lastCmd := v }) wait locked other run
      · exact .refl s

end Awaited

/-- Settles O54: both commands search in lockstep, and what else HOST does keeps the position. -/
theorem dispatchDependsOnRegistryTrainOutcomes : Obligations.DispatchDependsOnRegistryTrainOutcomes :=
  ⟨fun _ _ _ reg rst ptLen train locked free free' short => dspStart_lockstep reg rst ptLen train locked free free' short,
    fun _ _ _ same outcome => dspReturn_lockstep same outcome,
    fun _ _ wait locked noReset noReturn => SameDispatch.step wait locked noReset noReturn⟩

end Sys2Proof.Machine

/-!
PROOFS of the family 60_exceptions.md: the order of the checks, refusals, the event of a return, the level of `IRQ`, and that
every step answers.
-/

namespace Sys2Proof.Machine

/-! ## `IRQ` (60_exceptions.md R290) -/

/-- Settles O11: each summand of the level is one enable bit and one state. -/
theorem irqIsFunctionOfStateAndEnable : Obligations.IrqIsFunctionOfStateAndEnable :=
  ⟨fun s => by simp [State.irq], rfl, rfl⟩

/-! ## The check that decides `STATUS` (R282)

What each shared frame of the commands leaves in `STATUS`, in the tests of the table `checkCode`; then every command by the frames
it is written with. -/

section Checks

variable {s t k : State}

/-- A check that a command makes as the table has it leaves its code where it fails, else what comes after it leaves. -/
theorem State.status_check {p : Prop} [Decidable p] {check : Bool} {c : RefuseCode} {code : Word}
    (agrees : p ↔ check = true) (after : k.status = code) :
    (if p then s.refuse c else k).status = if check then c.code else code := by
  simp only [agrees, ← after, apply_ite State.status, State.refuse_status]

theorem State.status_onSlice (s : State) (k : List Byte → State) :
    (s.onSlice k).status = if decide (1024 < s.arg0.toNat + s.arg1.toNat) then 6 else 0 := by
  by_cases outside : 1024 < s.arg0.toNat + s.arg1.toNat
  · rw [s.onSlice_of_gt k outside, decide_eq_true outside]; rfl
  · rw [s.onSlice_of_le k (Nat.not_lt.1 outside), decide_eq_false outside]; rfl

theorem State.status_onUnlocked (s k : State) (b : Buf) :
    (s.onUnlocked b k).status = if b == .bb0 && s.dst == .waitDecode then 3 else k.status :=
  State.status_check (c := .state) .rfl rfl

theorem State.status_onRow (s k : State) (b : Buf) (r : Word) :
    (s.onRow b r k).status = if decide ((s.buf b).rows.length ≤ r.toNat) then 5 else k.status := by
  by_cases missing : (s.buf b).rows.length ≤ r.toNat
  · rw [s.onRow_of_ge b r k missing, decide_eq_true missing]; rfl
  · rw [s.onRow_of_lt b r k (Nat.not_le.1 missing), decide_eq_false missing]; rfl

theorem State.status_onRow_onRow (s k : State) (b : Buf) (r r' : Word) :
    (s.onRow b r (s.onRow b r' k)).status =
      if decide ((s.buf b).rows.length ≤ r.toNat) || decide ((s.buf b).rows.length ≤ r'.toNat) then 5 else k.status := by
  simp [State.status_onRow, ite_or]

/-- A command over a second slice, inside `SCR` executed and else refused (R158, R171, R172). -/
theorem State.status_ifInScr (s k : State) (a n : Nat) :
    (if inScr a n then k.accept else s.refuse .range).status = if decide (1024 < a + n) then 6 else 0 := by
  by_cases outside : 1024 < a + n
  · rw [inScr_of_gt outside, decide_eq_true outside]; rfl
  · rw [inScr_of_le (Nat.not_lt.1 outside), decide_eq_false outside]; rfl

theorem State.status_secondStage (s : State) (src dst : Buf) (f : List Bool → Nat → List Bool) :
    (s.secondStage src dst f).status = if dst == .bb0 && s.dst == .waitDecode then 3 else if src == dst then 4
      else if decide ((s.buf src).rows.length ≤ s.arg0.toNat) then 5 else 0 :=
  State.status_check (c := .state) .rfl <| State.status_check (c := .buf) beq_iff_eq.symm <| s.status_onRow _ src s.arg0

theorem status_of_afterSelect {o : Option State} (h : afterSelect o = .next t) : t.status = 0 := by
  obtain ⟨u, -, rfl⟩ := afterSelect_next o t h
  rfl

theorem checkCode_dspStart (s : State) : checkCode .dspStart s =
    if s.rst ≠ .locked ∨ s.dst = .waitDecode then 3 else if 1024 < s.ptLen.toNat then 7 else 0 := by
  simp [checkCode, stateForbids, sameBuffer, rowMissing, sliceOutside, operandBad, registryFull]

theorem checkCode_dspReturn (s : State) : checkCode .dspReturn s = if s.dst ≠ .waitDecode then 3 else 0 := by
  simp [checkCode, stateForbids, sameBuffer, rowMissing, sliceOutside, operandBad, registryFull]

theorem status_of_dspStart (h : exec .dspStart s = .next t) : t.status = checkCode .dspStart s := by
  rw [checkCode_dspStart]
  split
  next busy => cases (exec_dspStart_busy busy).symm.trans h; rfl
  next idle =>
    obtain ⟨locked, free⟩ : s.rst = .locked ∧ s.dst ≠ .waitDecode := by simpa using idle
    split
    next long => cases (exec_dspStart_long locked free long).symm.trans h; rfl
    next short => exact status_of_afterSelect ((exec_dspStart_ready locked free (Nat.not_lt.1 short)).symm.trans h)

theorem status_of_dspReturn (h : exec .dspReturn s = .next t) : t.status = checkCode .dspReturn s := by
  rw [checkCode_dspReturn]
  split
  next free => cases (exec_dspReturn_free free).symm.trans h; rfl
  next wait => rcases execDspReturn_cases s t (not_not.1 wait) h with ⟨-, u, -, rfl⟩ | ⟨-, u, -, rfl⟩ <;> rfl

/-- The checks a command makes are those of the table, in its order. -/
theorem status_of_exec {i : Instr} (h : exec i s = .next t) : t.status = checkCode i s := by
  cases i with
  | dspStart => exact status_of_dspStart h
  | dspReturn => exact status_of_dspReturn h
  | nop | refl8 | bbInfo | bbInvert | bbFindrep | bbFindpfx => cases h; rfl
  | crc8 | crc8r | crc16 | crc16r | xorb | addb | parb | lfsr8 | lfsr8r | lfsr16 | lfsr16r | reflb =>
    cases h
    exact s.status_onSlice _
  | bbClear b | bbAddrow b | bbAddbit b =>
    cases h
    exact s.status_onUnlocked _ b
  | bbAddbits b =>
    cases h
    rw [s.status_onUnlocked, s.status_ifInScr]
    rfl
  | bbRowlen b | bbGetbit b =>
    cases h
    exact s.status_onRow _ b s.arg0
  | bbSearch b | bbExtract b =>
    cases h
    rw [s.status_onRow, s.status_ifInScr]
    rfl
  | bbCmprows b =>
    cases h
    exact s.status_onRow_onRow _ b s.arg0 s.arg1
  | bbManch src dst | bbDmanch src dst =>
    cases h
    exact s.status_secondStage src dst _
  | regInit | regLock | regTeardown | dspAck =>
    cases h
    exact State.status_check (by simp [stateForbids]) rfl
  | demod =>
    cases h
    exact State.status_check (by simp [stateForbids]) <|
      State.status_check (check := operandBad .demod s) (by simp [operandBad]) rfl
  | regAdd =>
    cases h
    exact State.status_check (by simp [stateForbids]) <|
      State.status_check (check := operandBad .regAdd s) (by simp [operandBad]) <|
        State.status_check (check := registryFull .regAdd s) (by simp [registryFull]) rfl

end Checks

/-- Settles O12: each command by the checks of its frames. -/
theorem checkOrderDecidesStatus : Obligations.CheckOrderDecidesStatus := fun _ _ _ => status_of_exec

/-! ## Refusal (R283) -/

/-- Settles O13: a refusal writes `STATUS` alone, after `LASTCMD`; every other end of a command leaves `STATUS` 0. -/
theorem refusedCommandChangesNothing : Obligations.RefusedCommandChangesNothing := by
  refine ⟨fun s t w rest h refused => ?_, fun i s t h passes => (status_of_exec h).trans passes⟩
  rw [step_issue _ w rest rfl] at h
  rcases State.issue_cases _ t w h with ⟨i, -, run⟩ | ⟨c, -, rfl⟩
  · rcases exec_refused_or_accepted i _ t run with ⟨c, rfl⟩ | accepted
    · rfl
    · exact absurd accepted refused
  · rfl

/-! ## The event of a return (R296, 45_registry_dispatch.md R264) -/

section Events

variable {s t : State}

@[simp] theorem State.writePage_evt (s : State) (v : Word) (r : PageReg) : (s.writePage v r).evt = s.evt := by
  cases r <;> rfl

theorem toNat_eventLevel (v : Word) : (eventLevel v).toNat =
    if 1 ≤ v.toInt then 0 else if v.toInt = 0 then 1 else if v.toInt = -3 then 2 else 3 := by
  simp only [eventLevel, apply_ite BitVec.toNat]
  rfl

/-- An executed `DSP_RETURN` appends its one event; the selection that follows appends none. -/
theorem evt_of_dspReturn (h : exec .dspReturn s = .next t) (wait : s.dst = .waitDecode) :
    t.evt = s.evt ++ [{ cand := s.cand, cur := s.cur, outcome := normalise s.arg0,
                        level := eventLevel (normalise s.arg0) }] := by
  rcases execDspReturn_cases s t wait h with ⟨-, u, sel, rfl⟩ | ⟨-, u, sel, rfl⟩ <;> exact congrArg State.evt sel.frame

/-- A command that emits an event is an executed `DSP_RETURN`. -/
theorem exec_emits {i : Instr} (h : exec i s = .next t) (emits : t.evt ≠ s.evt) :
    i = .dspReturn ∧ s.dst = .waitDecode := by
  obtain rfl := (exec_effect i s t h).evt emits
  refine ⟨rfl, ?_⟩
  by_contra free
  cases (exec_dspReturn_free free).symm.trans h
  exact emits rfl

/-- A step that emits an event issues the word of `DSP_RETURN` while a decoder is awaited. -/
theorem step_emits (h : step s = .next t) (emits : t.evt ≠ s.evt) :
    s.requests.head? = some (.write .four 0x10#15 0x49#32) ∧ s.dst = .waitDecode := by
  rcases step_cases s t h with ⟨rfl, -⟩ | ⟨rest, r, -, rfl⟩ | ⟨rest, -, rfl⟩ | ⟨rest, size, a, w, pending, written⟩
  · exact absurd rfl emits
  · exact absurd rfl emits
  · exact absurd rfl emits
  · rcases written with rfl | ⟨r, -, rfl, -⟩ | ⟨-, -, rfl⟩ | ⟨rfl, rfl, issued⟩
    · exact absurd rfl emits
    · exact absurd (State.writePage_evt _ w r) emits
    · exact absurd rfl emits
    · rcases State.issue_cases _ t w issued with ⟨i, decoded, run⟩ | ⟨c, -, rfl⟩
      · obtain ⟨rfl, wait⟩ := exec_emits run emits
        refine ⟨?_, wait⟩
        rw [pending, ← encode_of_decode decoded]
        rfl
      · exact absurd rfl emits

end Events

/-- Settles O16: only an issued `DSP_RETURN` emits an event, and executed it emits the one of R264. -/
theorem oneEventPerExecutedReturn : Obligations.OneEventPerExecutedReturn := by
  intro s t h returns
  refine ⟨fun other => ?_, fun ⟨head, wait⟩ => ?_⟩
  · by_contra emits
    exact other (step_emits h emits)
  · obtain ⟨rest, pending⟩ := List.head?_eq_some_iff.1 head
    have run := (stepRunsDecodedCommand.1 s _ rest .dspReturn pending (decode_encode .dspReturn)).symm.trans h
    have emitted := evt_of_dspReturn run wait
    exact ⟨_, emitted, rfl, rfl, rfl, toNat_eventLevel _⟩

/-! ## Every step answers (R280) -/

section Answers

variable {s : State}

/-- Within the registry's capacity no command stops: the selections of `DSP_START` and `DSP_RETURN` end (log 6). -/
theorem exec_answers (slots : s.reg.length ≤ 256) (i : Instr) : ∃ t, exec i s = .next t := by
  cases i with
  | dspStart =>
    obtain ⟨busy, long, ready⟩ := dspStartSelectsFirstDecoder.2 s
    by_cases refused : s.rst ≠ .locked ∨ s.dst = .waitDecode
    · exact ⟨_, busy refused⟩
    · obtain ⟨locked, free⟩ : s.rst = .locked ∧ s.dst ≠ .waitDecode := by simpa using refused
      rcases Nat.lt_or_ge 1024 s.ptLen.toNat with exceeds | fits
      · exact ⟨_, long locked free exceeds⟩
      · obtain ⟨u, -, answer⟩ := ready locked free fits slots
        exact ⟨_, answer⟩
  | dspReturn =>
    obtain ⟨free, success, failure⟩ := dspReturnRecordsAndContinues.2 s
    by_cases wait : s.dst = .waitDecode
    · rcases Int.lt_or_le (normalise s.arg0).toInt 1 with failed | matched
      · obtain ⟨u, -, answer⟩ := failure wait slots failed
        exact ⟨_, answer⟩
      · obtain ⟨_, u, -, -, answer⟩ := success wait slots matched
        exact ⟨_, answer⟩
    · exact ⟨_, free wait⟩
  | _ => exact ⟨_, rfl⟩

theorem State.issue_answers (slots : s.reg.length ≤ 256) (w : Word) : ∃ t, s.issue w = .next t := by
  cases decoded : decode w with
  | ok i => rw [State.issue_of_ok s decoded]; exact exec_answers (s := { s with lastCmd := w }) slots i
  | error e =>
    cases e with
    | unknownOpcode => exact ⟨_, State.issue_of_unknownOpcode s decoded⟩
    | reservedField => exact ⟨_, State.issue_of_reservedField s decoded⟩

theorem State.writeTarget_answers (slots : s.reg.length ≤ 256) (size : Size) (a : Nat) (v : Word) (target : Target) :
    ∃ t, s.writeTarget size a v target = .next t := by
  cases target with
  | page r =>
    rw [State.writeTarget]
    split
    · exact State.issue_answers slots v
    · exact ⟨_, rfl⟩
  | scr | pt | reg => exact ⟨_, rfl⟩

/-- Within the registry's capacity no step stops, whatever is pending. -/
theorem step_answers (slots : s.reg.length ≤ 256) : ∃ t, step s = .next t := by
  cases pending : s.requests with
  | nil => exact ⟨s, step_idle s pending⟩
  | cons r rest =>
    cases r with
    | reset => exact ⟨_, step_reset s rest pending⟩
    | read size a => exact ⟨_, step_read s size a rest pending⟩
    | write size a v =>
      rw [step_write s size a v rest pending]
      cases s.busCheck true size a.toNat with
      | error e => exact ⟨_, rfl⟩
      | ok target =>
        exact State.writeTarget_answers (s := { s with requests := rest, resp := .done }) slots size a.toNat v target

end Answers

/-- Settles O58: of the invariant, that the registry is within its capacity. -/
theorem everyStepAnswersNext : Obligations.EveryStepAnswersNext := fun _ inv => step_answers inv.slots

end Sys2Proof.Machine

/-!
PROOFS of the family 70_reset_and_hazards.md: the first reads after reset.
-/

namespace Sys2Proof.Machine

/-! ## What the targets of the bus hold at reset (10_state.md R54) -/

/-- The registers of R31, which hold constants of the configuration; every other register is state. -/
def identityRegs : List PageReg := [.id, .cap0, .cap1, .cap2]

@[simp] theorem Desc.word_zero (w : Nat) : Desc.zero.word w = 0 := by
  unfold Desc.word
  split <;> rfl

@[simp] theorem State.slot_reset (i : Nat) : State.reset.slot i = Desc.zero := rfl

theorem State.readPage_reset {r : PageReg} (hr : r ∉ identityRegs) : State.reset.readPage r = 0 := by
  cases r with
  | id | cap0 | cap1 | cap2 => exact absurd (by decide) hr
  | desc w => exact Desc.word_zero w
  | _ => rfl

/-! ## Which register an address of the page names (10_state.md R26) -/

/-- The identity registers lie below `CMD`, offset by offset. -/
theorem pageReg_all_notMem_identityRegs : ∀ a : Fin 256, 0x10 ≤ a.val →
    (pageReg a.val).all (fun r => decide (r ∉ identityRegs)) = true := by
  decide +kernel

/-- From `CMD` on, a mapped address of the page names a register of the state. -/
theorem targetOf_page_of_mapped {a : Nat} (hm : mapped a) (low : 0x10 ≤ a) (high : a < 0x100) :
    ∃ r ∉ identityRegs, targetOf a = some (.page r) := by
  have inPage : a < 0x58 ∨ (0x80 ≤ a ∧ a < 0xC0) := by simp only [mapped] at hm; omega
  have named : (targetOf a).isSome = true := (targetOf_page_isSome ⟨a, high⟩).2 inPage
  have others := pageReg_all_notMem_identityRegs ⟨a, high⟩ low
  rw [targetOf, if_pos high] at named ⊢
  cases hr : pageReg a with
  | none => simp [hr] at named
  | some r => exact ⟨r, by simpa [hr] using others, rfl⟩

/-! ## The reads (70_reset_and_hazards.md R312) -/

/-- The first access after reset, a word read at an aligned address the map names. -/
theorem step_first_read {a : BusAddr} {t : Target} {v : Word} (hal : a.toNat % 4 = 0) (ht : targetOf a.toNat = some t)
    (hv : State.reset.readTarget .four a.toNat t = v) :
    step { State.reset with requests := [.read .four a] } = .next { State.reset with resp := .data v } := by
  have h := step_read_word State.reset [] a.toNat t a.isLt hal ht
  rw [BitVec.ofNat_toNat, BitVec.setWidth_eq, hv] at h
  exact h

/-- Settles O6: the identity words are constants; outside `SCR` and `PT` a mapped address at or above `CMD` is a register of the
page, 0 at reset, or a word of the registry, which is empty. -/
theorem firstReadsAfterReset : Obligations.FirstReadsAfterReset := by
  refine ⟨step_first_read (t := .page .id) rfl rfl rfl, step_first_read (t := .page .cap0) rfl rfl rfl,
    step_first_read (t := .page .cap1) rfl rfl rfl, step_first_read (t := .page .cap2) rfl rfl rfl, ?_⟩
  intro a hal hm low outside
  rcases Nat.lt_or_ge a.toNat 0x100 with page | above
  · obtain ⟨r, hr, ht⟩ := targetOf_page_of_mapped hm low page
    exact step_first_read hal ht (State.readPage_reset hr)
  · have inReg : 0x4000 ≤ a.toNat ∧ a.toNat < 0x8000 := by simp only [mapped] at hm; omega
    exact step_first_read hal (targetOf_reg _ inReg) (by rw [State.readTarget, State.slot_reset, Desc.word_zero])

end Sys2Proof.Machine
